-- ==== Sys2Proof/Word.lean ====
section
/-! DEFINITION. The word types of the ZCRTTY core (spec/00_scope.md R6, R7: every value has a stated width).
Values are plain bit vectors, bit 0 the least significant (R6); `toNat` reads one as the spec's `uN` and `toInt` as its `sN`. -/

namespace Sys2Proof

/-- A 32-bit command word (spec/30_encoding.md R70). -/
abbrev Word := BitVec 32

/-- The operand field `ARG` of a command word, and every register it is written to: `u24` (R70, R22, R25, R26). -/
abbrev Arg := BitVec 24

/-- A ring cell, a decoded character: `u8` (R36, R154). -/
abbrev Byte := BitVec 8

/-- A five-bit Baudot code (R6: the first received data bit is bit 0). -/
abbrev Code := BitVec 5

/-- A raw sample. `P_SAMPLE_W` is at most 16 (R5), so 16 bits hold it. -/
abbrev Sample := BitVec 16

/-- A centred sample, `s17`, read by `toInt` (R28, R100). -/
abbrev Centred := BitVec 17

/-- A time or a period: `u32` microseconds, wrapping modulo 2^32 (R120, R216). -/
abbrev Time := BitVec 32

/-- A ring cursor, `u16` (R37, R38). -/
abbrev Cursor := BitVec 16

end Sys2Proof
end

