-- ==== Sys2Proof/Config.lean ====
section
/-! DEFINITION. The implementation parameters of spec/00_scope.md R5, as one record, and the values the spec leaves open.
A machine carries its parameters in `State.cfg`; no step changes them. The record the reset state carries is
`Params.spec` (Machine/Defaults.lean). `P_SOURCE` is "OPEN, not modelled" in R5 and has no field (notes/assumptions/14.md). -/

namespace Sys2Proof

/-- The parameters of R5. What each must satisfy is `Params.Legal` (WellFormed.lean). -/
structure Params where
  /-- `P_SAMPLE_W`: width of one raw sample, bits. -/
  sampleW   : Nat
  /-- `P_DC_MID`: the DC midpoint subtracted from each sample. -/
  dcMid     : Sample
  /-- `P_RING_N`: capacity of the OutputRing in cells. -/
  ringN     : Nat
  /-- `P_WIN0`: reset value of `WIN`. -/
  win0      : Arg
  /-- `P_THR0`: reset value of `THR`. -/
  thr0      : Arg
  /-- `P_BAUD0`: reset value of `BAUD`, in 0.01 baud. -/
  baud0     : Arg
  /-- `P_LTR_TABLE`: the Letters code table; `none` is the unmapped sentinel. -/
  ltrTable  : Vector (Option Byte) 32
  /-- `P_FIG_TABLE`: the Figures code table. -/
  figTable  : Vector (Option Byte) 32
  /-- `P_FIGS_CODE`: the Figures-shift code. -/
  figsCode  : Code
  /-- `P_LTRS_CODE`: the Letters-shift code. -/
  ltrsCode  : Code
deriving DecidableEq, Repr

/-! Open parameters (R5 "OPEN"). Each is a constant without a body, so nothing can be proved of it beyond its range.
The range is exactly the constraint of R5, as the shifts in Machine/Defaults.lean show. -/

/-- `P_RING_N - 2`: the ring capacity is OPEN in R5, from 2 to 65536. -/
opaque Config.openRing : Fin 65535

/-- `P_WIN0 - 1`: the reset window size is OPEN in R5, from 1 to 2^24-1. -/
opaque Config.openWin : Fin 16777215

/-- Fixes `P_THR0`, OPEN in R5, from 1 to `P_WIN0`. -/
opaque Config.openThr : Nat

/-! Free values: the inputs and contents the spec leaves to any value. Each is applied to a plain counter of State, or to the
cell's own index. -/

/-- What `pull()` returns where the sample queue holds nothing: spec/20_memory.md R54 "a free draw" (U6). -/
opaque Config.freeSample : Nat → Sample

/-- The clock reading of a STEP where the clock queue holds nothing: an input of each STEP (R216, U7). -/
opaque Config.freeClock : Nat → Time

/-- Which port goes first when both have a command waiting and no choice is queued; true is port P (R61, U8, U9). -/
opaque Config.freeGrant : Nat → Bool

/-- What a ring cell holds before any PUSH has written it: "unspecified" (R36, U2). -/
opaque Config.freeCell : Nat → Byte

end Sys2Proof
end

