-- ==== Sys2Proof/Syntax.lean ====
section
/-! DEFINITION. The commands of spec/30_encoding.md: ports (R71), the seven instructions of the opcode map (R73) and the
assembler's lines (R79, R80). -/

namespace Sys2Proof

/-- The two command ports: P is the producer's, C the consumer's (R71). -/
inductive Port where
  | P
  | C
deriving DecidableEq, Repr

/-- The mnemonics of the opcode map (R73). -/
inductive Mnemonic where
  | INIT
  | STEP
  | DRAIN_TEXT
  | SET_BAUD
  | SET_WINDOW
  | SET_THRESHOLD
  | SET_DEBUG
deriving DecidableEq, Repr

/-- A decoded command (R73, R77). DRAIN_TEXT is the one command both ports accept, so it carries the port it was issued on,
to which its response goes; every other command is port P's. -/
inductive Instr where
  | init
  | step
  | drainText (port : Port) (maxLen : Arg)
  | setBaud (rate : Arg)
  | setWindow (n : Arg)
  | setThreshold (n : Arg)
  | setDebug (enable : Bool)
deriving DecidableEq, Repr

/-- Why a command word is refused at decode (R74, R75, R213). -/
inductive DecodeError where
  /-- The opcode is none of R73. -/
  | reservedOpcode
  /-- A command other than DRAIN_TEXT on port C. -/
  | wrongPort
deriving DecidableEq, Repr

/-- A row of the opcode map: it is selected when `word & mask = pattern` (R73). -/
structure OpRow where
  mnemonic : Mnemonic
  pattern  : Word
  mask     : Word
  ports    : List Port
deriving DecidableEq, Repr

/-- A decimal number with the digits it has after its point, as SET_BAUD_RATE takes one (R80). -/
structure Decimal where
  whole  : Nat
  digits : List (Fin 10)
deriving DecidableEq, Repr

/-- What an assembler line asks for: a command with its operand (R79) or a pseudo-command (R80). -/
inductive AsmStmt where
  | command (m : Mnemonic) (operand : Option Nat)
  | setBaudRate (r : Decimal)
  | debugOn
  | debugOff
  | drain (n : Nat)
deriving DecidableEq, Repr

/-- The input annotation of a STEP line, `@now=<t> win=<name>`; it is not part of the encoding (R79). -/
structure AsmNote where
  now : Option Nat
  win : Option (List Char)
deriving DecidableEq, Repr

/-- One assembler line: `<port>: <MNEMONIC> [<operand>]`, with the annotation where there is one (R79). -/
structure AsmLine where
  port : Port
  stmt : AsmStmt
  note : Option AsmNote
deriving DecidableEq, Repr

end Sys2Proof
end

