-- ==== Sys2Proof/WellFormed.lean ====
section
/-! DEFINITION. What the spec asks of its syntax and of its parameters: the port a command may be issued on (R71, R75), the form
of an assembler line (R79, R80) and the constraints on the parameters (R5, normative there). -/

namespace Sys2Proof

/-- The port a command is issued on: DRAIN_TEXT names its own, every other command is the producer's (R71). -/
def Instr.port : Instr → Port
  | .drainText p _ => p
  | .init | .step | .setBaud _ | .setWindow _ | .setThreshold _ | .setDebug _ => .P

/-- A command is well formed on a port when that port accepts it and it answers there: on port C only DRAIN_TEXT (R71, R75).
Operand ranges need no check, since their types have the spec's widths (R70, R72). -/
def Instr.wellFormedOn (port : Port) (i : Instr) : Bool :=
  i.port == port

/-! ## Assembler lines (R79, R80) -/

/-- The number a decimal stands for, times 100; meaningful for at most two digits after the point. -/
def Decimal.hundredths (r : Decimal) : Nat :=
  match r.digits with
  | [] => r.whole * 100
  | [d] => r.whole * 100 + d.val * 10
  | d :: e :: _ => r.whole * 100 + d.val * 10 + e.val

/-- Whether the operand is required: it is for these five mnemonics and absent for INIT and STEP (R79). -/
def Mnemonic.takesOperand : Mnemonic → Bool
  | .INIT | .STEP => false
  | .DRAIN_TEXT | .SET_BAUD | .SET_WINDOW | .SET_THRESHOLD | .SET_DEBUG => true

/-- The largest operand, 2^24-1 (R79). -/
def maxOperand : Nat := 2 ^ 24 - 1

/-- The operand is there exactly where the mnemonic takes one, and lies in 0 to 2^24-1 (R79). -/
def operandOk (m : Mnemonic) : Option Nat → Bool
  | none => !m.takesOperand
  | some n => m.takesOperand && decide (n ≤ maxOperand)

/-- The condition column of R80 and the operand rule of R79. -/
def AsmStmt.wellFormed : AsmStmt → Bool
  | .command m operand => operandOk m operand
  | .setBaudRate r =>
    decide (r.digits.length ≤ 2) && decide (1 ≤ r.hundredths) && decide (r.hundredths ≤ maxOperand)
  | .debugOn | .debugOff => true
  | .drain n => decide (n + 1 ≤ maxOperand)

/-- A line is well formed when its statement is and only a STEP line carries an annotation (R79). Any command may stand on either
port: what port C does not accept is refused at decode, which is the model's choice of where (DESIGN CHOICE,
notes/assumptions/19.md). -/
def AsmLine.wellFormed (l : AsmLine) : Bool :=
  l.stmt.wellFormed && (l.note.isNone || l.stmt == .command .STEP none)

/-! ## Parameters (R5) -/

/-- A code table leaves entry 0 and the two shift codes unmapped and maps nothing to the byte 0x00 (R5, D22, D23). -/
abbrev Params.TableLegal (p : Params) (t : Vector (Option Byte) 32) : Prop :=
  t[0] = none ∧ t[p.figsCode.toNat] = none ∧ t[p.ltrsCode.toNat] = none ∧ ∀ i : Fin 32, t[i] ≠ some 0

/-- The normative constraints of R5. "a configuration that breaks a constraint is outside the spec". -/
structure Params.Legal (p : Params) : Prop where
  sampleW_ge : 2 ≤ p.sampleW
  sampleW_le : p.sampleW ≤ 16
  dcMid_lt   : p.dcMid.toNat < 2 ^ p.sampleW
  ringN_ge   : 2 ≤ p.ringN
  ringN_le   : p.ringN ≤ 65536
  win0_pos   : 1 ≤ p.win0.toNat
  thr0_pos   : 1 ≤ p.thr0.toNat
  thr0_le    : p.thr0.toNat ≤ p.win0.toNat
  baud0_pos  : 1 ≤ p.baud0.toNat
  figs_ne    : p.figsCode ≠ p.ltrsCode
  figs_pos   : 1 ≤ p.figsCode.toNat
  ltrs_pos   : 1 ≤ p.ltrsCode.toNat
  ltrTable   : p.TableLegal p.ltrTable
  figTable   : p.TableLegal p.figTable

end Sys2Proof
end

