-- ==== Sys2Proof/Decode.lean ====
section
/-! DEFINITION. The decoder of spec/30_encoding.md R77, total on every word and port; the encoder from the same opcode map
(R70, R73); the byte form of a word (spec/20_memory.md R57); and the assembler (R79, R80). -/

namespace Sys2Proof

/-! ## Fields and the opcode map -/

/-- `OP`, bits [31:24] (R70). -/
def opField (w : Word) : BitVec 8 := w.extractLsb' 24 8

/-- `ARG`, bits [23:0] (R70). -/
def argField (w : Word) : Arg := w.extractLsb' 0 24

/-- The word with the given `OP` and `ARG` (R70). -/
def mkWord (op : BitVec 8) (arg : Arg) : Word := op ++ arg

/-- The opcode map of R73, row by row. -/
def opRows : List OpRow :=
  [ ⟨.INIT,          0x01000000, 0xFF000000, [.P]⟩,
    ⟨.STEP,          0x02000000, 0xFF000000, [.P]⟩,
    ⟨.DRAIN_TEXT,    0x03000000, 0xFF000000, [.P, .C]⟩,
    ⟨.SET_BAUD,      0x10000000, 0xFF000000, [.P]⟩,
    ⟨.SET_WINDOW,    0x11000000, 0xFF000000, [.P]⟩,
    ⟨.SET_THRESHOLD, 0x12000000, 0xFF000000, [.P]⟩,
    ⟨.SET_DEBUG,     0x13000000, 0xFF000000, [.P]⟩ ]

/-- "A word selects a row when word & mask = match" (R73). -/
def OpRow.selects (r : OpRow) (w : Word) : Bool := w &&& r.mask == r.pattern

/-- The mnemonic of an instruction (R73). -/
def Instr.mnemonic : Instr → Mnemonic
  | .init => .INIT
  | .step => .STEP
  | .drainText _ _ => .DRAIN_TEXT
  | .setBaud _ => .SET_BAUD
  | .setWindow _ => .SET_WINDOW
  | .setThreshold _ => .SET_THRESHOLD
  | .setDebug _ => .SET_DEBUG

/-- The opcode of a mnemonic (R73). -/
def Mnemonic.opcode : Mnemonic → BitVec 8
  | .INIT => 0x01
  | .STEP => 0x02
  | .DRAIN_TEXT => 0x03
  | .SET_BAUD => 0x10
  | .SET_WINDOW => 0x11
  | .SET_THRESHOLD => 0x12
  | .SET_DEBUG => 0x13

/-! ## Decoder -/

/-- A command that only the producer's port accepts (R71, R75). -/
def producerOnly (port : Port) (i : Instr) : Except DecodeError Instr :=
  match port with
  | .P => .ok i
  | .C => .error .wrongPort

/-- `decode(port, word)` of R77: the ignored operand bits of R76 are dropped here. -/
def decode (port : Port) (w : Word) : Except DecodeError Instr :=
  match (opField w).toNat with
  | 0x01 => producerOnly port .init
  | 0x02 => producerOnly port .step
  | 0x03 => .ok (.drainText port (argField w))
  | 0x10 => producerOnly port (.setBaud (argField w))
  | 0x11 => producerOnly port (.setWindow (argField w))
  | 0x12 => producerOnly port (.setThreshold (argField w))
  | 0x13 => producerOnly port (.setDebug ((argField w).getLsbD 0))
  | _ => .error .reservedOpcode

/-! ## Encoder -/

/-- The operand field of an instruction; ignored bits are 0, the canonical encoding (R76). -/
def Instr.arg : Instr → Arg
  | .init | .step => 0
  | .drainText _ m => m
  | .setBaud rate => rate
  | .setWindow n => n
  | .setThreshold n => n
  | .setDebug e => (BitVec.ofBool e).setWidth 24

/-- The canonical word of an instruction (R70, R73, R76). The port is not part of the word. -/
def encode (i : Instr) : Word := mkWord i.mnemonic.opcode i.arg

/-- Which operand bits a mnemonic reads: none for INIT and STEP, bit 0 for SET_DEBUG, else all (R72, R76). -/
def Mnemonic.argMask : Mnemonic → Arg
  | .INIT | .STEP => 0
  | .SET_DEBUG => 1
  | .DRAIN_TEXT | .SET_BAUD | .SET_WINDOW | .SET_THRESHOLD => 0xFFFFFF

/-! ## Words as bytes (R57) -/

/-- A word split for a byte transport, least significant byte first (R57). -/
def wordBytes (w : Word) : List Byte :=
  [w.extractLsb' 0 8, w.extractLsb' 8 8, w.extractLsb' 16 8, w.extractLsb' 24 8]

/-- The word that four bytes carry; none when they are not four, for a command is 32 bits long (R57, R70). -/
def wordOfBytes : List Byte → Option Word
  | [b0, b1, b2, b3] => some (b3 ++ b2 ++ b1 ++ b0)
  | _ => none

/-- The decoder on the bytes of a transport: none when they are not one whole word. -/
def decodeBytes (port : Port) (bs : List Byte) : Option (Except DecodeError Instr) :=
  (wordOfBytes bs).map (decode port)

/-- A number of the opcode table's bits as a word, the bits above `nbits` zero. -/
def tableWord (nbits w : Nat) : Word := BitVec.ofNat 32 (w % 2 ^ nbits)

/-- What the decoder reads from a word of the opcode table, on port P, which accepts every opcode (R71). -/
def decodeTableWord (nbits w : Nat) : Option Instr :=
  match decodeBytes .P (wordBytes (tableWord nbits w)) with
  | some (.ok i) => some i
  | some (.error _) => none
  | none => none

/-! ## Assembler (R79, R80) -/

/-- The mnemonic and operand a statement assembles to; a pseudo-command is expanded first (R80). -/
def AsmStmt.expand : AsmStmt → Mnemonic × Nat
  | .command m operand => (m, operand.getD 0)
  | .setBaudRate r => (.SET_BAUD, r.hundredths)
  | .debugOn => (.SET_DEBUG, 1)
  | .debugOff => (.SET_DEBUG, 0)
  | .drain n => (.DRAIN_TEXT, n + 1)

/-- The bits of an operand that the canonical encoding keeps: "the assembler's output … sets every ignored bit to 0" (R76). -/
def canonicalArg (m : Mnemonic) (operand : Nat) : Arg := BitVec.ofNat 24 operand &&& m.argMask

/-- The word of a well-formed line: `OP` from R73 and `ARG` the operand, 0 where it is absent (R79). -/
def AsmLine.assemble (l : AsmLine) : Option (Port × Word) :=
  if l.wellFormed then
    let (m, operand) := l.stmt.expand
    some (l.port, mkWord m.opcode (canonicalArg m operand))
  else none

/-! ### The text of a line -/

/-- Cuts a list at every element that satisfies `p`. -/
def splitAtAll {α : Type} (p : α → Bool) : List α → List (List α)
  | [] => [[]]
  | c :: cs =>
    if p c then [] :: splitAtAll p cs
    else
      match splitAtAll p cs with
      | [] => [[c]]
      | w :: ws => (c :: w) :: ws

/-- The blank-separated words of a line, its comment from `;` on left out (R79). -/
def lineWords (cs : List Char) : List (List Char) :=
  (splitAtAll (fun c => c == ' ' || c == '\t') (cs.takeWhile (· != ';'))).filter (· ≠ [])

/-- The value of a digit in a base of at most 16. -/
def digitValue (base : Nat) (c : Char) : Option Nat :=
  let n := c.toNat
  let v :=
    if 48 ≤ n ∧ n ≤ 57 then n - 48
    else if 65 ≤ n ∧ n ≤ 70 then n - 55
    else if 97 ≤ n ∧ n ≤ 102 then n - 87
    else 16
  if v < base then some v else none

/-- Reads digits after those already read. -/
def readDigits (base : Nat) : List Char → Nat → Option Nat
  | [], acc => some acc
  | c :: cs, acc => (digitValue base c).bind fun d => readDigits base cs (acc * base + d)

/-- An operand: "a decimal or 0x hexadecimal number" (R79). Which spellings count beyond that is the model's choice (DESIGN CHOICE,
notes/assumptions/19.md). -/
def readNumber : List Char → Option Nat
  | [] => none
  | '0' :: 'x' :: c :: cs => readDigits 16 (c :: cs) 0
  | cs => readDigits 10 cs 0

/-- A decimal number without a sign. -/
def readWhole : List Char → Option Nat
  | [] => none
  | c :: cs => readDigits 10 (c :: cs) 0

/-- A decimal with digits after its point, as in `45.45` (R80). The spec does not say which other texts are decimals: that a point
with no digit after it is allowed (`45.` is 45) and that a part before the point is required (`.45` is none) is the model's choice
(DESIGN CHOICE, notes/assumptions/19.md). -/
def readDecimal (cs : List Char) : Option Decimal :=
  match splitAtAll (· == '.') cs with
  | [whole] => (readWhole whole).map fun n => ⟨n, []⟩
  | [whole, frac] =>
    (readWhole whole).bind fun n =>
      (frac.mapM fun c => (digitValue 10 c).map fun d => Fin.ofNat 10 d).map fun ds => ⟨n, ds⟩
  | _ => none

/-- The mnemonic a word names (R73). -/
def readMnemonic (w : List Char) : Option Mnemonic :=
  if w = ['I', 'N', 'I', 'T'] then some .INIT
  else if w = ['S', 'T', 'E', 'P'] then some .STEP
  else if w = ['D', 'R', 'A', 'I', 'N', '_', 'T', 'E', 'X', 'T'] then some .DRAIN_TEXT
  else if w = ['S', 'E', 'T', '_', 'B', 'A', 'U', 'D'] then some .SET_BAUD
  else if w = ['S', 'E', 'T', '_', 'W', 'I', 'N', 'D', 'O', 'W'] then some .SET_WINDOW
  else if w = ['S', 'E', 'T', '_', 'T', 'H', 'R', 'E', 'S', 'H', 'O', 'L', 'D'] then some .SET_THRESHOLD
  else if w = ['S', 'E', 'T', '_', 'D', 'E', 'B', 'U', 'G'] then some .SET_DEBUG
  else none

/-- One item of a STEP line's annotation, added to those read (R79). The spec shows `@now=<t> win=<name>` only: that either may
be missing, that they may come in any order, that of a repeated one the last counts, and that any text without blanks is a name,
the empty one too, is the model's choice (DESIGN CHOICE, notes/assumptions/17.md). -/
def readNoteItem (note : AsmNote) : List Char → Option AsmNote
  | '@' :: 'n' :: 'o' :: 'w' :: '=' :: t => (readNumber t).map fun n => { note with now := some n }
  | 'w' :: 'i' :: 'n' :: '=' :: name => some { note with win := some name }
  | _ => none

/-- The statement and annotation that the words after the port give. -/
def readStmt : List (List Char) → Option (AsmStmt × Option AsmNote)
  | [['D', 'E', 'B', 'U', 'G', '_', 'O', 'N']] => some (.debugOn, none)
  | [['D', 'E', 'B', 'U', 'G', '_', 'O', 'F', 'F']] => some (.debugOff, none)
  | [['D', 'R', 'A', 'I', 'N'], n] => (readNumber n).map fun n => (.drain n, none)
  | [['S', 'E', 'T', '_', 'B', 'A', 'U', 'D', '_', 'R', 'A', 'T', 'E'], r] =>
    (readDecimal r).map fun r => (.setBaudRate r, none)
  | [m] => (readMnemonic m).map fun m => (.command m none, none)
  | m :: rest =>
    (readMnemonic m).bind fun m =>
      if m = .STEP then (rest.foldlM readNoteItem ⟨none, none⟩).map fun note => (.command m none, some note)
      else
        match rest with
        | [n] => (readNumber n).map fun n => (.command m (some n), none)
        | _ => none
  | [] => none

/-- The port a line's first word names (R79). -/
def readPort : List Char → Option Port
  | ['P', ':'] => some .P
  | ['C', ':'] => some .C
  | _ => none

/-- A line of the assembler. The outer none is a line that does not parse; the inner none is a line without a command, which
holds nothing but blanks and a comment, which is allowed by the model's choice (DESIGN CHOICE, notes/assumptions/19.md). -/
def readLine (cs : List Char) : Option (Option AsmLine) :=
  match lineWords cs with
  | [] => some none
  | port :: rest =>
    (readPort port).bind fun p => (readStmt rest).map fun (stmt, note) => some ⟨p, stmt, note⟩

end Sys2Proof
end

