-- ==== Sys2Proof/Machine/Defaults.lean ====
section
/-! DEFINITION. The default code tables of spec/42_codec.md R152 and R153, which the spec marks as general knowledge of ITA2, and
the parameter record of the reset machine: the defaults of spec/00_scope.md R5, its open parameters left open. -/

namespace Sys2Proof

/-- Default `P_LTR_TABLE`, codes 0 to 31 (R152). -/
def defaultLtrTable : Vector (Option Byte) 32 :=
  #v[none,      some 0x45, some 0x0A, some 0x41, some 0x20, some 0x53, some 0x49, some 0x55,
     some 0x0D, some 0x44, some 0x52, some 0x4A, some 0x4E, some 0x46, some 0x43, some 0x4B,
     some 0x54, some 0x5A, some 0x4C, some 0x57, some 0x48, some 0x59, some 0x50, some 0x51,
     some 0x4F, some 0x42, some 0x47, none,      some 0x4D, some 0x58, some 0x56, none]

/-- Default `P_FIG_TABLE`, codes 0 to 31 (R153). -/
def defaultFigTable : Vector (Option Byte) 32 :=
  #v[none,      some 0x33, some 0x0A, some 0x2D, some 0x20, some 0x27, some 0x38, some 0x37,
     some 0x0D, some 0x05, some 0x34, some 0x07, some 0x2C, some 0x21, some 0x3A, some 0x28,
     some 0x35, some 0x2B, some 0x29, some 0x32, some 0x23, some 0x36, some 0x30, some 0x31,
     some 0x39, some 0x3F, some 0x26, none,      some 0x2E, some 0x2F, some 0x3D, none]

/-- `P_WIN0` as the open constant gives it: any value from 1 to 2^24-1 (R5). -/
def openWin0 : Arg := BitVec.ofNat 24 (Config.openWin.val + 1)

/-- `P_THR0` as the open constant gives it: any value from 1 to `P_WIN0` (R5). -/
def openThr0 : Arg := BitVec.ofNat 24 (Config.openThr % (Config.openWin.val + 1) + 1)

/-- The parameters of R5: its default where it has one, else the open constant. -/
def Params.spec : Params where
  sampleW  := 12
  dcMid    := 2048
  ringN    := Config.openRing.val + 2
  win0     := openWin0
  thr0     := openThr0
  baud0    := 4545
  ltrTable := defaultLtrTable
  figTable := defaultFigTable
  figsCode := 27
  ltrsCode := 31

end Sys2Proof
end

