-- ==== Sys2Proof/Machine/Timing.lean ====
section
/-! DEFINITION. The bit-period function of spec/44_control.md R191 and the half period of R24. -/

namespace Sys2Proof.Machine

/-- `bitp(b) = (2 * 10^8 + b) div (2 * b)`: the bit period in microseconds at `b` hundredths of a baud, rounded, ties up (R191).
Defined for `b` from 1; no register holds 0 in a run (R22). -/
def bitp (b : Arg) : Time :=
  BitVec.ofNat 32 ((2 * 10 ^ 8 + b.toNat) / (2 * b.toNat))

/-- `HALFP = BITP div 2` (R24, R191). -/
def halfPeriod (bitPeriod : Time) : Time :=
  BitVec.ofNat 32 (bitPeriod.toNat / 2)

end Sys2Proof.Machine
end

