-- ==== Sys2Proof/Machine/State.lean ====
section
/-! DEFINITION. The state of the core (spec/10_state.md R20), what stands around it (ports, inputs, responses), the reasons a
step can stop, and the state after reset (spec/70_reset_and_hazards.md R230, R231). -/

namespace Sys2Proof.Machine

/-- The class of a window: Mark is 1, Space is 0 (spec/00_scope.md R10). -/
inductive Tone where
  | mark
  | space
deriving DecidableEq, Repr

/-- The states of the framing machine, coded 0 to 3 in this order (R10, R30). -/
inductive FramingState where
  | idle
  | startConfirm
  | dataBits
  | stopBits
deriving DecidableEq, Repr

/-- The shift states, coded 0 and 1 in this order (R10, R35). -/
inductive ShiftState where
  | letters
  | figures
deriving DecidableEq, Repr

/-- The response of a command (spec/30_encoding.md R78): `Ack`, or `Text(count, bytes)` where `count` is a u24. -/
inductive Response where
  | ack
  | text (count : Arg) (bytes : List Byte)
deriving DecidableEq, Repr

/-- The ring's cells that a PUSH has written, by index (R36, R50). An index that is not listed has no value yet. -/
abbrev Memory := List Host.Cell

/-- The canonical form: indices strictly rising, so that equal contents are equal lists. -/
abbrev Memory.wf (m : Memory) : Prop := m.Pairwise fun c d => c.1 < d.1

/-- Why a step ends in a fault. -/
inductive Fault where
  /-- A STEP before the first INIT (R29, R212). Raised by STEP only. Safe: the model stops where the spec gives no meaning. -/
  | notInitialised
deriving DecidableEq, Repr

/-- Why a command has no meaning. -/
inductive Refusal where
  /-- An opcode outside the map (R74, R213). Raised by step at decode. Safe: the spec defines no behaviour for it. -/
  | reservedOpcode
  /-- A command other than DRAIN_TEXT on port C (R75, R213). Raised by step at decode. Safe, as above. -/
  | wrongPort
  /-- An instruction without a meaning in exec. No arm raises it. Safe. -/
  | notModelled (mnemonic : String)
deriving DecidableEq, Repr

/-- The inputs the outside supplies to one command: the samples it pulls and, for STEP, its `now` (R9). What is not supplied
comes from the source and the clock. -/
structure Inputs where
  now    : Option Time
  window : List Sample
deriving DecidableEq, Repr

/-- A command word issued on a port, with the inputs supplied to that command (R9, R71, R79). -/
structure Issued where
  word   : Word
  inputs : Inputs
deriving DecidableEq, Repr

/-- Everything the spec gives the machine, and the model's own fields. -/
structure State where
  /-- The parameters of R5. The model's own field: no step changes it (notes/assumptions/2.md). -/
  cfg      : Params
  /-- `BAUD`, in 0.01 baud (R22). -/
  baud     : Arg
  /-- `BITP`, the bit period in microseconds (R23). -/
  bitp     : Time
  /-- `HALFP`, the half-bit period (R24). -/
  halfp    : Time
  /-- `WIN`, samples in one window (R25). -/
  win      : Arg
  /-- `THR`, the transition-count threshold (R26). -/
  thr      : Arg
  /-- `DBG`, the debug-trace enable, which no rule reads (R27). -/
  dbg      : Bool
  /-- `PREV`, the centred last sample taken (R28). -/
  prev     : Centred
  /-- `INIT_DONE` (R29). -/
  initDone : Bool
  /-- `FSTATE` (R30). -/
  fstate   : FramingState
  /-- `T_START`, the candidate start-bit time (R31). -/
  tStart   : Time
  /-- `T_NEXT`, the scheduled sample instant (R32). -/
  tNext    : Time
  /-- `ACC`, the data bits received (R33). -/
  acc      : Code
  /-- `CNT`, how many (R34). -/
  cnt      : BitVec 3
  /-- `SHIFT` (R35). -/
  shift    : ShiftState
  /-- `RBUF` (R36). -/
  rbuf     : Memory
  /-- `WPTR`, the write cursor (R37). -/
  wptr     : Cursor
  /-- `RPTR`, the read cursor (R38). -/
  rptr     : Cursor
  /-- Commands issued on port P and not yet taken, oldest first (R71). The model's own field, as are all below. -/
  portP    : List Issued
  /-- Commands issued on port C and not yet taken, oldest first (R71). -/
  portC    : List Issued
  /-- Which port goes first, one entry for each time both have a word waiting (R61, R64). -/
  arb      : List Port
  /-- The samples the source delivers next, oldest first (R54, R55). -/
  samples  : List Sample
  /-- The clock values the coming STEPs read (R216). -/
  clock    : List Time
  /-- How many free values have been drawn. -/
  drawn    : Nat
  /-- Responses delivered on port P, oldest first (R78). -/
  respP    : List Response
  /-- Responses delivered on port C, oldest first (R78). -/
  respC    : List Response
deriving DecidableEq, Repr

/-- `construct` for the given parameters: R231's value for every element. `PREV` is unspecified there and starts at 0
(DESIGN CHOICE, notes/assumptions/3.md); no cell is listed (notes/assumptions/4.md). -/
def State.resetWith (p : Params) : State where
  cfg      := p
  baud     := p.baud0
  bitp     := Machine.bitp p.baud0
  halfp    := halfPeriod (Machine.bitp p.baud0)
  win      := p.win0
  thr      := p.thr0
  dbg      := false
  prev     := 0
  initDone := false
  fstate   := .idle
  tStart   := 0
  tNext    := 0
  acc      := 0
  cnt      := 0
  shift    := .letters
  rbuf     := []
  wptr     := 0
  rptr     := 0
  portP    := []
  portC    := []
  arb      := []
  samples  := []
  clock    := []
  drawn    := 0
  respP    := []
  respC    := []

/-- The machine right after reset, at the parameters of R5 (R230, R231). -/
def State.reset : State := State.resetWith Params.spec

end Sys2Proof.Machine
end

