-- ==== Sys2Proof/Machine/Ops.lean ====
section
/-! DEFINITION. The named operations every command is written over (spec/00_scope.md R8): ring-cell access, the sample source,
the clock, responses, and taking the next command from the ports. The core has no exception entry and no return from one
(spec/60_exceptions.md R210, R217), so there is no operation for either; the model fault of R212 is `raiseNotInitialised`. -/

namespace Sys2Proof.Machine

/-! ## Codes of the enumerations (R10) -/

def Tone.code : Tone → BitVec 1
  | .mark => 1
  | .space => 0

def FramingState.code : FramingState → BitVec 2
  | .idle => 0
  | .startConfirm => 1
  | .dataBits => 2
  | .stopBits => 3

def ShiftState.code : ShiftState → BitVec 1
  | .letters => 0
  | .figures => 1

/-! ## Ring cells (R8, R50, R51) -/

/-- The value of a cell, none where no PUSH has written it. -/
def Memory.read : Memory → Nat → Option Byte
  | [], _ => none
  | (a, b) :: m, x => if a = x then some b else Memory.read m x

/-- Writes one whole cell and keeps the canonical form. -/
def Memory.write : Memory → Nat → Byte → Memory
  | [], x, v => [(x, v)]
  | (a, b) :: m, x, v =>
    if x < a then (x, v) :: (a, b) :: m
    else if x = a then (x, v) :: m
    else (a, b) :: Memory.write m x v

/-- `RBUF[i]` read: the written value, else the free value the cell holds from reset (R36, U2). -/
def ringRead (s : State) (i : Nat) : Byte :=
  (s.rbuf.read i).getD (Config.freeCell i)

/-- `RBUF[i] <- c`. -/
def ringWrite (s : State) (i : Nat) (c : Byte) : State :=
  { s with rbuf := s.rbuf.write i c }

/-! ## Inputs -/

/-- The sample as the source delivers it: a `uP_SAMPLE_W` value (R54). -/
def asSample (p : Params) (x : Sample) : Sample :=
  BitVec.ofNat 16 (x.toNat % 2 ^ p.sampleW)

/-- `pull()`: the next raw sample, consumed; a free draw where none is queued. It never fails and never blocks (R54, R55). -/
def pull (s : State) : Sample × State :=
  match s.samples with
  | x :: rest => (asSample s.cfg x, { s with samples := rest })
  | [] => (asSample s.cfg (Config.freeSample s.drawn), { s with drawn := s.drawn + 1 })

/-- `now`: the clock value of this STEP, any value where none is queued (R8, R216). -/
def readClock (s : State) : Time × State :=
  match s.clock with
  | t :: rest => (t, { s with clock := rest })
  | [] => (Config.freeClock s.drawn, { s with drawn := s.drawn + 1 })

/-! ## Responses and stops -/

/-- `respond(r)` on the issuing port (R8, R78). -/
def State.respond (s : State) (port : Port) (r : Response) : State :=
  match port with
  | .P => { s with respP := s.respP ++ [r] }
  | .C => { s with respC := s.respC ++ [r] }

/-- `raise Fault(NotInitialised)` (R8, R212). -/
def raiseNotInitialised : Host.Outcome State Fault Refusal :=
  .fault .notInitialised

/-- `refuse(reason)` for what the decoder refuses (R8, R213). -/
def refuse : DecodeError → Host.Outcome State Fault Refusal
  | .reservedOpcode => .refused .reservedOpcode
  | .wrongPort => .refused .wrongPort

/-! ## Taking the next command (R61, R71) -/

/-- Which port goes first when both have a word waiting: the queued choice, else a free one (R61, R64). -/
def grant (s : State) : Port × State :=
  match s.arb with
  | p :: rest => (p, { s with arb := rest })
  | [] => (if Config.freeGrant s.drawn then .P else .C, { s with drawn := s.drawn + 1 })

/-- No inputs of its own: the command takes what the source and the clock give. -/
def noInputs : Inputs := ⟨none, []⟩

/-- How many samples the command of a word pulls: INIT 1, STEP `WIN`, no other any (R54). -/
def samplesPulled (s : State) (w : Word) : Nat :=
  if opField w = Mnemonic.INIT.opcode then 1
  else if opField w = Mnemonic.STEP.opcode then s.win.toNat
  else 0

/-- The inputs supplied to a command, put before those of the source and the clock as the command starts, so that it takes them
and no other command does: as many samples as it pulls, and the `now` of a STEP (R9, R79; notes/assumptions/18.md). -/
def State.supply (s : State) (c : Issued) : State :=
  { s with
    samples := c.inputs.window.take (samplesPulled s c.word) ++ s.samples
    clock := (if opField c.word = Mnemonic.STEP.opcode then c.inputs.now.toList else []) ++ s.clock }

/-- The command the core takes next: the oldest of a port that has one, with its inputs. None where neither has: the core waits
(R230). -/
def takeCommand (s : State) : Option (Port × Word × State) :=
  match s.portP, s.portC with
  | [], [] => none
  | p :: ps, [] => some (.P, p.word, { s with portP := ps }.supply p)
  | [], c :: cs => some (.C, c.word, { s with portC := cs }.supply c)
  | p :: ps, c :: cs =>
    match grant s with
    | (.P, s') => some (.P, p.word, { s' with portP := ps }.supply p)
    | (.C, s') => some (.C, c.word, { s' with portC := cs }.supply c)

end Sys2Proof.Machine
end

