-- ==== Sys2Proof/Machine/Operands.lean ====
section
/-! DEFINITION. How a command's operand and inputs become the values it works on: the positivity check of the setters
(spec/44_control.md R196), the drain limit of DRAIN_TEXT (spec/43_ring.md R172) and the centring of a sample
(spec/40_discriminator.md R100). The operand itself is `ARG`, unsigned, with no scaling and no shift (spec/30_encoding.md R72). -/

namespace Sys2Proof.Machine

/-- "no validation beyond positivity": whether a setter takes the operand; 0 is ignored (R192 to R194, R196). -/
def positive (arg : Arg) : Bool := arg ≠ 0

/-- The characters a DRAIN_TEXT may return, `maxLen - 1`, for `maxLen` from 1 (R172). -/
def drainLimit (maxLen : Arg) : Nat := maxLen.toNat - 1

/-- `centre(s) = zext_17(s) - zext_17(P_DC_MID)`, held as s17 (R100). -/
def centre (p : Params) (x : Sample) : Centred :=
  x.setWidth 17 - p.dcMid.setWidth 17

/-- `centre(pull())` (R102, R190). -/
def pullCentred (s : State) : Centred × State :=
  let (x, s') := pull s
  (centre s.cfg x, s')

end Sys2Proof.Machine
end

