-- ==== Sys2Proof/Machine/Control.lean ====
section
/-! DEFINITION. INIT and the setters (spec/44_control.md R190 to R196). All are port-P commands and all answer `Ack` (R78). -/

namespace Sys2Proof.Machine

/-- INIT (R190): a fresh reference sample; framing and timing cleared; `SHIFT`, the ring and the configuration kept. -/
def execInit (s : State) : Host.Outcome State Fault Refusal :=
  let (c, s') := pullCentred s
  .next ({ s' with
    prev := c, fstate := .idle, acc := 0, cnt := 0, tStart := 0, tNext := 0, initDone := true }.respond .P .ack)

/-- SET_BAUD (R192): the rate and the periods derived from it; 0 is ignored. -/
def execSetBaud (rate : Arg) (s : State) : Host.Outcome State Fault Refusal :=
  if positive rate then
    .next ({ s with baud := rate, bitp := bitp rate, halfp := halfPeriod (bitp rate) }.respond .P .ack)
  else .next (s.respond .P .ack)

/-- SET_WINDOW (R193): 0 is ignored. -/
def execSetWindow (n : Arg) (s : State) : Host.Outcome State Fault Refusal :=
  if positive n then .next ({ s with win := n }.respond .P .ack) else .next (s.respond .P .ack)

/-- SET_THRESHOLD (R194): 0 is ignored; a value above `WIN` is held as written (R26). -/
def execSetThreshold (n : Arg) (s : State) : Host.Outcome State Fault Refusal :=
  if positive n then .next ({ s with thr := n }.respond .P .ack) else .next (s.respond .P .ack)

/-- SET_DEBUG (R195): no positivity check. -/
def execSetDebug (enable : Bool) (s : State) : Host.Outcome State Fault Refusal :=
  .next ({ s with dbg := enable }.respond .P .ack)

end Sys2Proof.Machine
end

