-- ==== Sys2Proof/Machine/Codec.lean ====
section
/-! DEFINITION. BAUDOT_DECODE (spec/42_codec.md R150), a pure function of a code and a shift state. -/

namespace Sys2Proof.Machine

/-- `TABLE(shift)[code]` (R52, R150). -/
def tableEntry (p : Params) (shift : ShiftState) (code : Code) : Option Byte :=
  match shift with
  | .letters => p.ltrTable[code.toNat]
  | .figures => p.figTable[code.toNat]

/-- The character of a code, or none, and the new shift state (R150). -/
def baudotDecode (p : Params) (code : Code) (shift : ShiftState) : Option Byte × ShiftState :=
  if code = p.figsCode then (none, .figures)
  else if code = p.ltrsCode then (none, .letters)
  else (tableEntry p shift code, shift)

end Sys2Proof.Machine
end

