-- ==== Sys2Proof/Machine/Flags.lean ====
section
/-! DEFINITION. The conditions the commands decide on. The core has no condition flags; these are computed afresh and not kept
(spec/10_state.md R39): the transition predicate and the classification of a window (spec/40_discriminator.md R101, R103) and the
time predicates (spec/41_framing.md R120). -/

namespace Sys2Proof.Machine

/-- `trans(a, b) = (a < 0 and b >= 0) or (a >= 0 and b < 0)`: zero counts as non-negative (R101). -/
def isTransition (a b : Centred) : Bool :=
  (decide (a.toInt < 0) && decide (0 ≤ b.toInt)) || (decide (0 ≤ a.toInt) && decide (b.toInt < 0))

/-- `count < THR` gives Mark and `count >= THR` gives Space (R103). -/
def classify (count : Nat) (thr : Arg) : Tone :=
  if count < thr.toNat then .mark else .space

/-- `elapsed(a, now) = (now - a) mod 2^32` (R120). -/
def elapsed (a now : Time) : Time := now - a

/-- `halfDone(now)`: half a bit period has elapsed since the candidate start time (R120). -/
def halfDone (s : State) (now : Time) : Bool :=
  decide (s.halfp.toNat ≤ (elapsed s.tStart now).toNat)

/-- `reached(T, now) = to_s32((now - T) mod 2^32) >= 0`: an equal instant counts as passed (R120). -/
def reached (t now : Time) : Bool :=
  decide (0 ≤ (now - t).toInt)

end Sys2Proof.Machine
end

