-- ==== Sys2Proof/Machine/Discriminator.lean ====
section
/-! DEFINITION. DISCRIMINATE (spec/40_discriminator.md R102), which runs inside STEP only. -/

namespace Sys2Proof.Machine

/-- The loop of R102: `n` samples to go, `count` transitions so far. -/
def windowLoop : Nat → Nat → State → Nat × State
  | 0, count, s => (count, s)
  | n + 1, count, s =>
    let (c, s') := pullCentred s
    windowLoop n (if isTransition s.prev c then count + 1 else count) { s' with prev := c }

/-- DISCRIMINATE: pulls `WIN` samples, counts the transitions and classifies the count; `WIN` and `THR` are read once, at its
start (R102, R105). -/
def discriminate (s : State) : Tone × State :=
  let (count, s') := windowLoop s.win.toNat 0 s
  (classify count s.thr, s')

end Sys2Proof.Machine
end

