-- ==== Sys2Proof/Machine/Ring.lean ====
section
/-! DEFINITION. The OutputRing (spec/43_ring.md): PUSH (R170), DRAIN (R171) and the command DRAIN_TEXT (R172). -/

namespace Sys2Proof.Machine

/-- A cursor `k` cells on, modulo the capacity (R37, R38). -/
def cursorPlus (s : State) (c : Cursor) (k : Nat) : Nat :=
  (c.toNat + k) % s.cfg.ringN

/-- `AVAIL = (WPTR - RPTR) mod P_RING_N`, the number of unread characters (R38). -/
def avail (s : State) : Nat :=
  (((s.wptr.toNat : Int) - (s.rptr.toNat : Int)) % (s.cfg.ringN : Int)).toNat

/-- The index of the one cell a PUSH writes (R51). -/
def pushIndex (s : State) : Nat := s.wptr.toNat

/-- PUSH of R170: a full ring drops its oldest unread character; the cell at `WPTR` is written; `WPTR` advances. -/
def push (c : Byte) (s : State) : State :=
  let nw := cursorPlus s s.wptr 1
  let s1 :=
    if nw = s.rptr.toNat then { s with rptr := BitVec.ofNat 16 (cursorPlus s s.rptr 1) } else s
  let s2 := ringWrite s1 (pushIndex s1) c
  { s2 with wptr := BitVec.ofNat 16 nw }

/-- The first `n` unread characters, oldest first: `RBUF[(RPTR + k) mod P_RING_N]` for k from 0 (R171). -/
def ringFront (s : State) (n : Nat) : List Byte :=
  (List.range n).map fun k => ringRead s (cursorPlus s s.rptr k)

/-- Every unread character, oldest first: what the ring stands for as a queue (R38, R62). -/
def unread (s : State) : List Byte := ringFront s (avail s)

/-- DRAIN of R171: at most `m` characters, removed from the ring. -/
def drain (m : Nat) (s : State) : List Byte × State :=
  let n := min (avail s) m
  (ringFront s n, { s with rptr := BitVec.ofNat 16 (cursorPlus s s.rptr n) })

/-- DRAIN_TEXT (R172). With `maxLen = 0` there is no room even for the terminator. -/
def execDrainText (port : Port) (maxLen : Arg) (s : State) : Host.Outcome State Fault Refusal :=
  if maxLen = 0 then .next (s.respond port (.text 0 []))
  else
    let (out, s') := drain (drainLimit maxLen) s
    .next (s'.respond port (.text (BitVec.ofNat 24 out.length) (out ++ [0])))

end Sys2Proof.Machine
end

