-- ==== Sys2Proof/Machine/Framing.lean ====
section
/-! DEFINITION. The bit-framing state machine and the STEP command (spec/41_framing.md R121 to R132). Each transition has the
name the spec's pseudocode gives it. -/

namespace Sys2Proof.Machine

/-- `ACC <- 0; CNT <- 0`. -/
def clearAcc (s : State) : State := { s with acc := 0, cnt := 0 }

/-- IDLE_STEP (R122). -/
def idleStep (tone : Tone) (now : Time) (s : State) : State :=
  match tone with
  | .space => { s with tStart := now, fstate := .startConfirm }
  | .mark => s

/-- CONFIRM (R124): the base is `T_START`, not `now`. -/
def confirm (s : State) : State :=
  { clearAcc s with tNext := s.tStart + s.bitp + s.halfp, fstate := .dataBits }

/-- REJECT (R125). -/
def reject (s : State) : State := { clearAcc s with fstate := .idle }

/-- START_STEP (R123). -/
def startStep (tone : Tone) (now : Time) (s : State) : State :=
  if halfDone s now then
    match tone with
    | .space => confirm s
    | .mark => reject s
  else s

/-- The value of a data bit, in the low bit of a code: Mark is 1, Space is 0 (R126). -/
def bitOf : Tone → Code
  | .mark => 1
  | .space => 0

/-- SAMPLE_BIT (R128, R129): the bit goes to `ACC[CNT]`; `T_NEXT` advances from itself, not from `now`. -/
def sampleBit (tone : Tone) (s : State) : State :=
  let s1 := { s with
    acc := s.acc ||| (bitOf tone <<< s.cnt.toNat), cnt := s.cnt + 1, tNext := s.tNext + s.bitp }
  if s1.cnt = 5 then { s1 with fstate := .stopBits } else s1

/-- DATA_STEP (R127). -/
def dataStep (tone : Tone) (now : Time) (s : State) : State :=
  if reached s.tNext now then sampleBit tone s else s

/-- `if ch = some c then PUSH(c)` (R131). -/
def deliver (ch : Option Byte) (s : State) : State :=
  match ch with
  | some c => push c s
  | none => s

/-- STOP_VALID (R131): the code goes to the codec, and its character, if any, to the ring. -/
def stopValid (s : State) : State :=
  let (ch, sh) := baudotDecode s.cfg s.acc s.shift
  { clearAcc (deliver ch { s with shift := sh }) with fstate := .idle }

/-- STOP_ERROR (R132): the framing error, silent; `SHIFT` and the ring are unchanged. -/
def stopError (s : State) : State := { clearAcc s with fstate := .idle }

/-- STOP_STEP (R130). -/
def stopStep (tone : Tone) (now : Time) (s : State) : State :=
  if reached s.tNext now then
    match tone with
    | .mark => stopValid s
    | .space => stopError s
  else s

/-- The one transition a STEP may fire, by `FSTATE` (R121). -/
def frameStep (tone : Tone) (now : Time) (s : State) : State :=
  match s.fstate with
  | .idle => idleStep tone now s
  | .startConfirm => startStep tone now s
  | .dataBits => dataStep tone now s
  | .stopBits => stopStep tone now s

/-- What a STEP observes before it acts: the tone of one whole window, then the clock, once (R121, D15). -/
def observe (s : State) : Tone × Time × State :=
  let (tone, s1) := discriminate s
  let (now, s2) := readClock s1
  (tone, now, s2)

/-- STEP (R121). -/
def execStep (s : State) : Host.Outcome State Fault Refusal :=
  if s.initDone then
    let (tone, now, s') := observe s
    .next ((frameStep tone now s').respond .P .ack)
  else raiseNotInitialised

end Sys2Proof.Machine
end

