-- ==== Sys2Proof/Machine/Dispatch.lean ====
section
/-! DEFINITION. One arm for each instruction of the opcode map (spec/30_encoding.md R73). -/

namespace Sys2Proof.Machine

def exec (i : Instr) (s : State) : Host.Outcome State Fault Refusal :=
  match i with
  | .init => Sys2Proof.Machine.execInit s
  | .step => Sys2Proof.Machine.execStep s
  | .drainText port maxLen => Sys2Proof.Machine.execDrainText port maxLen s
  | .setBaud rate => Sys2Proof.Machine.execSetBaud rate s
  | .setWindow n => Sys2Proof.Machine.execSetWindow n s
  | .setThreshold n => Sys2Proof.Machine.execSetThreshold n s
  | .setDebug enable => Sys2Proof.Machine.execSetDebug enable s

end Sys2Proof.Machine
end

