-- ==== Sys2Proof/Machine/Step.lean ====
section
/-! DEFINITION. One step of the machine: take the next command, decode it, run it (spec/00_scope.md R9, spec/20_memory.md R60).
The outcomes come in the order of spec/60_exceptions.md R214: refusal at decode, then the model fault, then the effect. -/

namespace Sys2Proof.Machine

/-- One atomic transition. Where no command waits, the core holds its state unchanged (R222, R230). -/
def step (s : State) : Host.Outcome State Fault Refusal :=
  match takeCommand s with
  | none => .next s
  | some (port, w, s') =>
    match decode port w with
    | .ok i => exec i s'
    | .error e => refuse e

/-- `s` with a word of the opcode table as the next command: at the head of port P's queue, and port P first where port C has a
command waiting too. -/
def State.withFetchWord (s : State) (nbits w : Nat) : State :=
  { s with
    portP := ⟨tableWord nbits w, noInputs⟩ :: s.portP
    arb := if s.portC.isEmpty then s.arb else .P :: s.arb }

end Sys2Proof.Machine
end

