-- ==== Sys2Proof/Machine/Ports.lean ====
section
/-! DEFINITION. What the outside does to the machine between commands: issuing words on the ports (spec/30_encoding.md R71),
supplying samples and clock values (spec/20_memory.md R54, spec/60_exceptions.md R216), choosing the order of the ports
(R61), and issuing an assembler line with its annotation (R79). -/

namespace Sys2Proof.Machine

/-- A command issued on a port, with the inputs supplied to it, waits behind those already there (R9; R61: the order respects
the issue order on each port). -/
def State.issueWith (s : State) (port : Port) (w : Word) (inputs : Inputs) : State :=
  match port with
  | .P => { s with portP := s.portP ++ [⟨w, inputs⟩] }
  | .C => { s with portC := s.portC ++ [⟨w, inputs⟩] }

/-- A command issued with no inputs of its own. -/
def State.issue (s : State) (port : Port) (w : Word) : State := s.issueWith port w noInputs

/-- Samples the source will deliver after those already queued (R55). -/
def State.supplySamples (s : State) (xs : List Sample) : State :=
  { s with samples := s.samples ++ xs }

/-- The clock value of a STEP to come (R216). -/
def State.supplyClock (s : State) (t : Time) : State :=
  { s with clock := s.clock ++ [t] }

/-- A choice between the ports for a time when both wait (R61). -/
def State.supplyGrant (s : State) (p : Port) : State :=
  { s with arb := s.arb ++ [p] }

/-- The samples a window name stands for: those of its first entry, none where it has no entry (DESIGN CHOICE,
notes/assumptions/16.md). -/
def windowNamed (windows : List (List Char × List Sample)) (name : List Char) : List Sample :=
  ((windows.find? fun w => w.1 == name).map Prod.snd).getD []

/-- The inputs a STEP line's annotation names: "the `now` and the samples the model supplies to that STEP" (R79). The spec gives
`<t>` no range: a number of 2^32 or more is taken modulo 2^32, as the clock wraps, which is the model's choice (DESIGN CHOICE,
notes/assumptions/17.md). -/
def noteInputs (windows : List (List Char × List Sample)) : Option AsmNote → Inputs
  | none => noInputs
  | some note => ⟨note.now.map (BitVec.ofNat 32), (note.win.map (windowNamed windows)).getD []⟩

/-- Issues an assembler line: its word on its port, with the inputs its annotation names, which go to that command (R79). None for
an ill-formed line. -/
def State.issueLine (s : State) (windows : List (List Char × List Sample)) (l : AsmLine) : Option State :=
  l.assemble.map fun (port, w) => s.issueWith port w (noteInputs windows l.note)

end Sys2Proof.Machine
end

