-- ==== Sys2Proof/Safety.lean ====
section
/-! DEFINITION. The terms claims are stated in: the invariants of spec/10_state.md R40 and of the register rules, the runs they
are about (every interleaving of the ports, every input), the host's duties (spec/70_reset_and_hazards.md R233, R235), and the
list view of a window and of the ring. -/

namespace Sys2Proof.Machine

/-! ## Invariants -/

/-- R40, points 1 to 5, with the register rules R33 and R34. -/
structure State.FramingInv (s : State) : Prop where
  cnt_le     : s.cnt.toNat ≤ 5
  idle_clear : s.fstate = .idle ∨ s.fstate = .startConfirm → s.cnt = 0 ∧ s.acc = 0
  data_cnt   : s.fstate = .dataBits → s.cnt.toNat ≤ 4
  stop_iff   : s.fstate = .stopBits ↔ s.cnt.toNat = 5
  acc_lt     : s.acc.toNat < 2 ^ s.cnt.toNat

/-- R40, points 6 and 7, with R36 and R50: cells only inside the ring and in canonical form, every unread cell written, and no
cell holding 0x00, which is never a character (R154). -/
structure State.RingInv (s : State) : Prop where
  wptr_lt : s.wptr.toNat < s.cfg.ringN
  rptr_lt : s.rptr.toNat < s.cfg.ringN
  avail_le : avail s ≤ s.cfg.ringN - 1
  mem_wf : Memory.wf s.rbuf
  mem_lt : ∀ c ∈ s.rbuf, c.1 < s.cfg.ringN
  mem_char : ∀ c ∈ s.rbuf, c.2 ≠ 0
  written : ∀ k < avail s, (s.rbuf.read (cursorPlus s s.rptr k)).isSome

/-- The configuration registers: positive, and the periods those of `BAUD` (R22 to R26). -/
structure State.ConfigInv (s : State) : Prop where
  baud_pos : s.baud ≠ 0
  win_pos  : s.win ≠ 0
  thr_pos  : s.thr ≠ 0
  bitp_eq  : s.bitp = Machine.bitp s.baud
  halfp_eq : s.halfp = halfPeriod s.bitp

/-- `PREV` holds a centred sample once INIT has run (R28, R100). -/
def State.PrevInv (s : State) : Prop :=
  s.initDone = true →
    -(s.cfg.dcMid.toNat : Int) ≤ s.prev.toInt ∧ s.prev.toInt ≤ 2 ^ s.cfg.sampleW - 1 - (s.cfg.dcMid.toNat : Int)

/-- All of them, at parameters that R5 allows. -/
structure State.Inv (s : State) : Prop where
  legal   : s.cfg.Legal
  framing : s.FramingInv
  ring    : s.RingInv
  config  : s.ConfigInv
  prev    : s.PrevInv

/-! ## Runs -/

/-- What the outside may do between commands: issue a word with its inputs, feed the source and the clock, choose an order (R9, R54, R61, R71, R216). -/
inductive HostAction (s : State) : State → Prop where
  | issue (port : Port) (w : Word) (inputs : Inputs) : HostAction s (s.issueWith port w inputs)
  | samples (xs : List Sample) : HostAction s (s.supplySamples xs)
  | clock (t : Time) : HostAction s (s.supplyClock t)
  | grant (p : Port) : HostAction s (s.supplyGrant p)

/-- The states of every run from `construct` at the given parameters, for every interleaving and every input (R61, R230). -/
inductive Reachable (p : Params) : State → Prop where
  | reset : Reachable p (State.resetWith p)
  | step {s t : State} : Reachable p s → Machine.step s = .next t → Reachable p t
  | host {s t : State} : Reachable p s → HostAction s t → Reachable p t

/-- A host duty the core does not check: `THR <= WIN` (R233). -/
def State.thresholdDuty (s : State) : Prop := s.thr.toNat ≤ s.win.toNat

/-- The clock precondition of R235 on two times counted without wrap: fewer than 2^31 microseconds lie between them. -/
def Timely (a b : Nat) : Prop := a < b + 2 ^ 31 ∧ b < a + 2 ^ 31

/-! ## List views -/

/-- The raw samples that `n` pulls return, in order, and the state after them. -/
def pullMany : Nat → State → List Sample × State
  | 0, s => ([], s)
  | n + 1, s =>
    let (x, s1) := pull s
    let (xs, s2) := pullMany n s1
    (x :: xs, s2)

/-- The transitions of a sequence of centred samples, the first compared with `prev` (R55, R102). -/
def transitions (prev : Centred) : List Centred → Nat
  | [] => 0
  | c :: cs => (if isTransition prev c then 1 else 0) + transitions c cs

/-- Several PUSHes, the first character first. -/
def pushAll (cs : List Byte) (s : State) : State := cs.foldl (fun s c => push c s) s

/-- Several framing transitions, each at its own tone and time. -/
def frameSteps (xs : List (Tone × Time)) (s : State) : State := xs.foldl (fun s x => frameStep x.1 x.2 s) s

/-- The tone a transmitter sends for bit `k` of a code (R126). -/
def toneOfBit (code : Code) (k : Nat) : Tone := if code.getLsbD k then .mark else .space

/-! ## Comparing states -/

/-- The outcome with its next state changed. -/
def mapNext (f : State → State) : Host.Outcome State Fault Refusal → Host.Outcome State Fault Refusal
  | .next s => .next (f s)
  | .fault r => .fault r
  | .refused r => .refused r

/-- The responses delivered on a port. -/
def State.responses (s : State) : Port → List Response
  | .P => s.respP
  | .C => s.respC

/-- The commands waiting on a port. -/
def State.waiting (s : State) : Port → List Issued
  | .P => s.portP
  | .C => s.portC

/-- A state without what the consumer side shares or owns: the ring, port C's queue and its responses (R41). -/
def State.producerView (s : State) : State :=
  { s with rbuf := [], wptr := 0, rptr := 0, portC := [], respC := [] }

/-- The configuration registers and the parameters are the same. -/
def SameConfig (s t : State) : Prop :=
  t.cfg = s.cfg ∧ t.baud = s.baud ∧ t.bitp = s.bitp ∧ t.halfp = s.halfp ∧ t.win = s.win ∧ t.thr = s.thr ∧ t.dbg = s.dbg

/-- The framing and timing registers are the same. -/
def SameFraming (s t : State) : Prop :=
  t.fstate = s.fstate ∧ t.tStart = s.tStart ∧ t.tNext = s.tNext ∧ t.acc = s.acc ∧ t.cnt = s.cnt

/-- The cursors are the same and every cell reads as before. -/
def SameRing (s t : State) : Prop :=
  t.wptr = s.wptr ∧ t.rptr = s.rptr ∧ ∀ a, t.rbuf.read a = s.rbuf.read a

/-- The commands waiting on the ports and the choices between them are the same. -/
def SamePorts (s t : State) : Prop :=
  t.portP = s.portP ∧ t.portC = s.portC ∧ t.arb = s.arb

/-- The inputs still to come are the same. -/
def SameInputs (s t : State) : Prop :=
  t.samples = s.samples ∧ t.clock = s.clock ∧ t.drawn = s.drawn

end Sys2Proof.Machine
end

