-- ==== Sys2Proof/Certificates/Slice0/Obligations.lean ====
section
/-! DEFINITION. The statements for the provers, each with the rule of spec/ it formalises. Where one speaks of every state it
holds in states no run reaches too, unless it names an invariant as a premise; the invariants are statements of their own. -/

open Sys2Proof Sys2Proof.Machine

/-! ## Encoding (spec/30_encoding.md) -/

/-- Words written out from the encodings of R73 decode to the commands they stand for (vectors E1 to E11). -/
def Obligations.WrittenWordsDecode : Prop :=
  decode .P 0x01000000 = .ok .init ∧ decode .P 0x02ABCDEF = .ok .step ∧
  decode .C 0x03000010 = .ok (.drainText .C 16) ∧ decode .P 0x03FFFFFF = .ok (.drainText .P 0xFFFFFF) ∧
  decode .P 0x100011C1 = .ok (.setBaud 4545) ∧ decode .P 0x11000004 = .ok (.setWindow 4) ∧
  decode .P 0x12000002 = .ok (.setThreshold 2) ∧ decode .P 0x13000002 = .ok (.setDebug false) ∧
  decode .P 0x13FFFFFF = .ok (.setDebug true)

/-- Decode and encode agree: the word of a command decodes to it, with every operand, on exactly the port it is well formed on. -/
def Obligations.DecodeInvertsEncode : Prop :=
  ∀ (port : Port) (i : Instr),
    (decode port (encode i) = .ok i ↔ i.wellFormedOn port = true) ∧
    (i.wellFormedOn port = true → decodeBytes port (wordBytes (encode i)) = some (.ok i))

/-- A decoded word is its command's canonical word but for the ignored operand bits (R76), and the command is well formed. -/
def Obligations.EncodeInvertsDecode : Prop :=
  ∀ (port : Port) (w : Word) (i : Instr), decode port w = .ok i →
    i.wellFormedOn port = true ∧ encode i = mkWord (opField w) (argField w &&& i.mnemonic.argMask)

/-- R73: a word selects at most one row of the opcode map; the row gives the command on the ports it lists and `WrongPort` on
the other; a word that selects none has a reserved opcode. That it is `ReservedOpcode` on port C too is the model's reading,
against the words of R75, from the order of R77 and vector E15 (DEDUCED, notes/assumptions/12.md). -/
def Obligations.OpcodeMapSelectsTheCommand : Prop :=
  ∀ w : Word,
    (∀ r ∈ opRows, ∀ r' ∈ opRows, r.selects w = true → r'.selects w = true → r = r') ∧
    (∀ r ∈ opRows, r.selects w = true → ∀ port : Port,
      (port ∈ r.ports → ∃ i, decode port w = .ok i ∧ i.mnemonic = r.mnemonic) ∧
      (port ∉ r.ports → decode port w = .error .wrongPort)) ∧
    ((∀ r ∈ opRows, r.selects w = false) → ∀ port : Port, decode port w = .error .reservedOpcode)

/-- R74 with R77: a command word with a reserved opcode is refused, on either port and in every state. That the refusal is
`ReservedOpcode` on port C too is the model's reading, against the words of R75, from the order of R77 and vector E15 (DEDUCED,
notes/assumptions/12.md). -/
def Obligations.ReservedOpcodeIsRefused : Prop :=
  ∀ (s s' : State) (port : Port) (w : Word), takeCommand s = some (port, w, s') →
    ((opField w).toNat = 0x00 ∨ (0x04 ≤ (opField w).toNat ∧ (opField w).toNat ≤ 0x0F) ∨ 0x14 ≤ (opField w).toNat) →
    step s = .refused .reservedOpcode

/-- R75 in the order of R77: on port C every opcode of the map but DRAIN_TEXT's is refused with `WrongPort`, also before INIT
(R214: refusal comes before the model fault). -/
def Obligations.ConsumerPortTakesOnlyDrainText : Prop :=
  ∀ (s s' : State) (w : Word), takeCommand s = some (.C, w, s') →
    opField w ∈ [0x01, 0x02, 0x10, 0x11, 0x12, 0x13] → step s = .refused .wrongPort

/-- R76: an ignored operand bit has no effect: words that differ in nothing else decode to the same command, and where taking
them leaves the same state, the step has the same outcome, next state and responses among it; the canonical encoding and the
assembler's output set it to 0. -/
def Obligations.IgnoredBitsHaveNoEffect : Prop :=
  (∀ (port : Port) (w w' : Word), opField w = opField w' →
    (opField w = 0x01 ∨ opField w = 0x02 → decode port w = decode port w') ∧
    (opField w = 0x13 → (argField w).getLsbD 0 = (argField w').getLsbD 0 → decode port w = decode port w')) ∧
  (∀ (s s' t : State) (port : Port) (w w' : Word),
    takeCommand s = some (port, w, t) → takeCommand s' = some (port, w', t) → opField w = opField w' →
    (opField w = 0x01 ∨ opField w = 0x02 → step s = step s') ∧
    (opField w = 0x13 → (argField w).getLsbD 0 = (argField w').getLsbD 0 → step s = step s')) ∧
  argField (encode .init) = 0 ∧ argField (encode .step) = 0 ∧
  (∀ e : Bool, argField (encode (.setDebug e)) = if e then 1 else 0) ∧
  (∀ (l : AsmLine) (port : Port) (w : Word), l.assemble = some (port, w) →
    (opField w = 0x01 ∨ opField w = 0x02 → argField w = 0) ∧
    (opField w = 0x13 → argField w = 0 ∨ argField w = 1))

/-- R79: a well-formed line assembles, on its port, to the canonical word of the command it asks for, with its operand or 0,
and the annotation is not part of the encoding; an ill-formed line does not assemble. Issuing a line issues that word on its
port with the inputs its annotation names (a `t` modulo 2^32 by notes/assumptions/17.md, a name's samples by 16.md); without an
annotation there are none. -/
def Obligations.AssembledLineIsItsCommand : Prop :=
  (∀ l : AsmLine, l.wellFormed = true → ∃ (w : Word) (i : Instr),
    l.assemble = some (l.port, w) ∧ decode .P w = .ok i ∧ encode i = w ∧
    i.mnemonic = l.stmt.expand.1 ∧ i.arg = canonicalArg l.stmt.expand.1 l.stmt.expand.2) ∧
  (∀ l : AsmLine, l.wellFormed = false → l.assemble = none) ∧
  (∀ l : AsmLine, l.wellFormed = true → AsmLine.assemble { l with note := none } = l.assemble) ∧
  (∀ (s : State) (windows : List (List Char × List Sample)) (l : AsmLine) (w : Word), l.assemble = some (l.port, w) →
    (l.note = none → s.issueLine windows l = some (s.issue l.port w)) ∧
    (∀ (t : Nat) (name : List Char) (xs : List Sample), l.note = some ⟨some t, some name⟩ → windowNamed windows name = xs →
      s.issueLine windows l = some (s.issueWith l.port w ⟨some (BitVec.ofNat 32 t), xs⟩)))

/-- R80: what each pseudo-command expands to, under its condition; and `DRAIN n` returns at most `n` characters. -/
def Obligations.PseudoCommandsExpand : Prop :=
  (∀ (p : Port) (r : Decimal), r.digits.length ≤ 2 → 1 ≤ r.hundredths → r.hundredths ≤ 2 ^ 24 - 1 →
    AsmLine.assemble ⟨p, .setBaudRate r, none⟩ = some (p, encode (.setBaud (BitVec.ofNat 24 r.hundredths)))) ∧
  (∀ p : Port, AsmLine.assemble ⟨p, .debugOn, none⟩ = some (p, encode (.setDebug true)) ∧
    AsmLine.assemble ⟨p, .debugOff, none⟩ = some (p, encode (.setDebug false))) ∧
  (∀ (p : Port) (n : Nat), n + 1 ≤ 2 ^ 24 - 1 →
    AsmLine.assemble ⟨p, .drain n, none⟩ = some (p, encode (.drainText p (BitVec.ofNat 24 (n + 1))))) ∧
  (∀ (p : Port) (n : Nat) (s t : State), n + 1 ≤ 2 ^ 24 - 1 →
    exec (.drainText p (BitVec.ofNat 24 (n + 1))) s = .next t →
    ∃ cs : List Byte, cs.length ≤ n ∧
      t.responses p = s.responses p ++ [.text (BitVec.ofNat 24 cs.length) (cs ++ [0])])

/-- R57: a word split into bytes goes least significant byte first, and is read back from them. -/
def Obligations.WordBytesAreLittleEndian : Prop :=
  ∀ w : Word, ∃ b0 b1 b2 b3 : Byte, wordBytes w = [b0, b1, b2, b3] ∧
    w.toNat = b0.toNat + 2 ^ 8 * b1.toNat + 2 ^ 16 * b2.toNat + 2 ^ 24 * b3.toNat ∧ wordOfBytes (wordBytes w) = some w

/-! ## Steps, ports and responses -/

/-- A step runs the decoded command on the state that is left when its word is taken from its port. Where no port has a word
the core holds its state unchanged (R222). -/
def Obligations.StepRunsTheDecodedCommand : Prop :=
  (∀ (s s' : State) (port : Port) (w : Word) (i : Instr),
    takeCommand s = some (port, w, s') → decode port w = .ok i → step s = exec i s') ∧
  (∀ s : State, s.portP = [] → s.portC = [] → step s = .next s)

/-- The word `withFetchWord` places is the next to run, on a state that is otherwise the one it was placed in. Placing a word at
the head of port P's queue is the model's own device (DESIGN CHOICE, notes/assumptions/10.md), no issue of R61. -/
def Obligations.PlacedWordRunsNext : Prop :=
  ∀ (s : State) (i : Instr), i.port = .P → step (s.withFetchWord 32 (encode i).toNat) = exec i s

/-- R61: an issued word waits behind those already on its port, and a word is taken from the front of one port's queue, the
other queue unchanged either time, so the order respects the issue order on each port; the inputs supplied to a command (R9) go before the shared ones, for INIT one sample, for STEP `WIN` samples
and its `now`, for no other command any (R54); a word is taken whenever one waits; where both wait, the queued choice decides. The choice queue and the
count of free draws are the model's own (notes/assumptions/6.md). -/
def Obligations.CommandsKeepIssueOrder : Prop :=
  (∀ (s t : State) (p : Port) (w : Word), takeCommand s = some (p, w, t) →
    ∃ c : Issued, c.word = w ∧ s.waiting p = c :: t.waiting p ∧ (∀ q, q ≠ p → t.waiting q = s.waiting q) ∧
    t = { s with
      portP := t.portP, portC := t.portC, arb := t.arb, drawn := t.drawn, samples := t.samples, clock := t.clock } ∧
    (opField w = 0x01 → t.samples = c.inputs.window.take 1 ++ s.samples ∧ t.clock = s.clock) ∧
    (opField w = 0x02 →
      t.samples = c.inputs.window.take s.win.toNat ++ s.samples ∧ t.clock = c.inputs.now.toList ++ s.clock) ∧
    (opField w ≠ 0x01 → opField w ≠ 0x02 → t.samples = s.samples ∧ t.clock = s.clock)) ∧
  (∀ s : State, s.portP ≠ [] ∨ s.portC ≠ [] → (takeCommand s).isSome = true) ∧
  (∀ (s : State) (q : Port) (rest : List Port), s.portP ≠ [] → s.portC ≠ [] → s.arb = q :: rest →
    ∃ w t, takeCommand s = some (q, w, t) ∧ t.arb = rest) ∧
  (∀ (s : State) (p : Port) (w : Word) (x : Inputs),
    (s.issueWith p w x).waiting p = s.waiting p ++ [⟨w, x⟩] ∧ ∀ q, q ≠ p → (s.issueWith p w x).waiting q = s.waiting q)

/-- R78: a command that is not refused and does not fault returns one response, on its port; DRAIN_TEXT's holds `count`
characters and, when `maxLen >= 1`, the terminator. -/
def Obligations.OneResponseOnTheIssuingPort : Prop :=
  ∀ (i : Instr) (s t : State), exec i s = .next t →
    (∃ r, t.responses i.port = s.responses i.port ++ [r] ∧
      (∀ (p : Port) (m : Arg), i = .drainText p m → ∃ (count : Arg) (cs : List Byte),
        count.toNat = cs.length ∧ r = .text count (cs ++ if m = 0 then [] else [0])) ∧
      ((∀ (p : Port) (m : Arg), i ≠ .drainText p m) → r = .ack)) ∧
    (∀ q, q ≠ i.port → t.responses q = s.responses q)

/-! ## INIT and the setters (spec/44_control.md) -/

/-- R190: INIT is `0x01xxxxxx` and completes in every state; what it writes, and nothing else but the sample it takes. -/
def Obligations.InitTakesReferenceAndClears : Prop :=
  (∀ a : Arg, decode .P (mkWord 0x01 a) = .ok .init) ∧
  ∀ (s s' : State) (x : Sample), pull s = (x, s') →
    exec .init s = .next ({ s' with
      prev := centre s.cfg x, fstate := .idle, acc := 0, cnt := 0, tStart := 0, tNext := 0,
      initDone := true }.respond .P .ack)

/-- The frame of INIT: configuration, shift state, ring, ports, clock and port C's responses are unchanged (R190 "Not written"). -/
def Obligations.InitFrame : Prop :=
  ∀ s t : State, exec .init s = .next t →
    SameConfig s t ∧ t.shift = s.shift ∧ SameRing s t ∧ t.rbuf = s.rbuf ∧ SamePorts s t ∧ t.clock = s.clock ∧
    t.respC = s.respC

/-- R191: the bit period is `floor((2 * 10^8 + b) / (2 * b))`, from 6 to 10^8: the nearest number of microseconds, ties up. -/
def Obligations.BitPeriodRoundsToNearest : Prop :=
  ∀ b : Arg, b ≠ 0 →
    (bitp b).toNat = (2 * 10 ^ 8 + b.toNat) / (2 * b.toNat) ∧ 6 ≤ (bitp b).toNat ∧ (bitp b).toNat ≤ 10 ^ 8 ∧
    2 * b.toNat * (bitp b).toNat ≤ 2 * 10 ^ 8 + b.toNat ∧ 2 * 10 ^ 8 < 2 * b.toNat * (bitp b).toNat + b.toNat ∧
    (halfPeriod (bitp b)).toNat = (bitp b).toNat / 2

/-- R192: SET_BAUD is `0x10` and the rate; it completes in every state; a rate of 0 is ignored. -/
def Obligations.SetBaudWritesRateAndPeriods : Prop :=
  ∀ (rate : Arg) (s : State), decode .P (mkWord 0x10 rate) = .ok (.setBaud rate) ∧
    (rate ≠ 0 → exec (.setBaud rate) s =
      .next ({ s with baud := rate, bitp := bitp rate, halfp := halfPeriod (bitp rate) }.respond .P .ack)) ∧
    (rate = 0 → exec (.setBaud rate) s = .next (s.respond .P .ack))

/-- R193: SET_WINDOW completes in every state; 0 is ignored; a window below the threshold is accepted, and then every window is
Mark. -/
def Obligations.SetWindowWritesWindow : Prop :=
  ∀ (n : Arg) (s : State), decode .P (mkWord 0x11 n) = .ok (.setWindow n) ∧
    (n ≠ 0 → exec (.setWindow n) s = .next ({ s with win := n }.respond .P .ack)) ∧
    (n = 0 → exec (.setWindow n) s = .next (s.respond .P .ack)) ∧
    (∀ t, exec (.setWindow n) s = .next t → t.win.toNat < t.thr.toNat → (discriminate t).1 = .mark)

/-- R194: SET_THRESHOLD completes in every state, above `WIN` too, and then every window is Mark; 0 is ignored. -/
def Obligations.SetThresholdWritesThreshold : Prop :=
  ∀ (n : Arg) (s : State), decode .P (mkWord 0x12 n) = .ok (.setThreshold n) ∧
    (n ≠ 0 → exec (.setThreshold n) s = .next ({ s with thr := n }.respond .P .ack)) ∧
    (n = 0 → exec (.setThreshold n) s = .next (s.respond .P .ack)) ∧
    (∀ t, exec (.setThreshold n) s = .next t → s.win.toNat < n.toNat → (discriminate t).1 = .mark)

/-- R195: SET_DEBUG completes in every state and writes `DBG`. -/
def Obligations.SetDebugWritesEnable : Prop :=
  ∀ (e : Bool) (s : State), exec (.setDebug e) s = .next ({ s with dbg := e }.respond .P .ack)

/-- R196, R42: the frame of the four setters. A setter changes only its own registers: never the framing state, the shift state,
`PREV` or the ring, nor another setter's register, nor anything around the core but port P's responses. -/
def Obligations.SetterFrame : Prop :=
  ∀ (i : Instr) (s t : State), i.mnemonic ∈ [.SET_BAUD, .SET_WINDOW, .SET_THRESHOLD, .SET_DEBUG] →
    exec i s = .next t →
    SameFraming s t ∧ t.shift = s.shift ∧ t.prev = s.prev ∧ t.initDone = s.initDone ∧ SameRing s t ∧ t.rbuf = s.rbuf ∧
    SamePorts s t ∧ SameInputs s t ∧ t.respC = s.respC ∧ t.cfg = s.cfg ∧
    (i.mnemonic ≠ .SET_BAUD → t.baud = s.baud ∧ t.bitp = s.bitp ∧ t.halfp = s.halfp) ∧
    (i.mnemonic ≠ .SET_WINDOW → t.win = s.win) ∧ (i.mnemonic ≠ .SET_THRESHOLD → t.thr = s.thr) ∧
    (i.mnemonic ≠ .SET_DEBUG → t.dbg = s.dbg)

/-! ## The discriminator (spec/40_discriminator.md) -/

/-- R100: the centred sample is the exact difference and stays in its range. -/
def Obligations.CentringIsExact : Prop :=
  ∀ (p : Params) (x : Sample), p.Legal → x.toNat < 2 ^ p.sampleW →
    (centre p x).toInt = (x.toNat : Int) - (p.dcMid.toNat : Int) ∧
    -(p.dcMid.toNat : Int) ≤ (centre p x).toInt ∧ (centre p x).toInt ≤ 2 ^ p.sampleW - 1 - (p.dcMid.toNat : Int)

/-- R101: a transition is a change of sign, zero counting as non-negative. -/
def Obligations.TransitionIsSignChange : Prop :=
  ∀ a b : Centred,
    (isTransition a b = true ↔ (a.toInt < 0 ∧ 0 ≤ b.toInt) ∨ (0 ≤ a.toInt ∧ b.toInt < 0)) ∧
    isTransition a b = isTransition b a ∧ isTransition a a = false

/-- R103, R107: below the threshold is Mark; exactly the threshold is Space, and one less is Mark. -/
def Obligations.ThresholdCountIsSpace : Prop :=
  ∀ (count : Nat) (thr : Arg),
    (count < thr.toNat → classify count thr = .mark) ∧ (thr.toNat ≤ count → classify count thr = .space) ∧
    classify thr.toNat thr = .space ∧ (1 ≤ thr.toNat → classify (thr.toNat - 1) thr = .mark)

/-- R54, R55: pulls return the source's samples in its order, each once, and never fail; samples of `P_SAMPLE_W` bits come as
they are. That a wider queued sample is cut to that width, and that what a pull returns past the queue's end is free but for its
width, are the model's choices (DESIGN CHOICE, notes/assumptions/7.md). -/
def Obligations.SamplesAreConsumedInOrder : Prop :=
  ∀ (n : Nat) (s : State),
    (n ≤ s.samples.length → (∀ x ∈ s.samples, x.toNat < 2 ^ s.cfg.sampleW) →
      pullMany n s = (s.samples.take n, { s with samples := s.samples.drop n })) ∧
    (n ≤ s.samples.length →
      pullMany n s = ((s.samples.take n).map (asSample s.cfg), { s with samples := s.samples.drop n })) ∧
    (pullMany n s).1.length = n ∧ ∀ x ∈ (pullMany n s).1, x.toNat < 2 ^ s.cfg.sampleW

/-- R102: DISCRIMINATE pulls `WIN` samples, classifies the number of transitions of `PREV` followed by the centred samples, and
leaves the last of them in `PREV`; it changes nothing else but the sample source. -/
def Obligations.DiscriminateClassifiesTheWindow : Prop :=
  ∀ (s w : State) (xs : List Sample), pullMany s.win.toNat s = (xs, w) →
    discriminate s =
      (classify (transitions s.prev (xs.map (centre s.cfg))) s.thr,
       { w with prev := (xs.map (centre s.cfg)).getLastD s.prev })

/-- R104: the count of a window lies in `[0, WIN]`; it counts over `WIN` comparisons, the first against `PREV`, the others
between the centred samples that `WIN` pulls return. -/
def Obligations.CountLiesWithinTheWindow : Prop :=
  ∀ s : State,
    (windowLoop s.win.toNat 0 s).1 ≤ s.win.toNat ∧
    (((pullMany s.win.toNat s).1).map (centre s.cfg)).length = s.win.toNat ∧
    (windowLoop s.win.toNat 0 s).1 = transitions s.prev (((pullMany s.win.toNat s).1).map (centre s.cfg))

/-- R106: the host may set `THR > WIN`, and then every window is Mark; with `THR = 1` a window with a transition is Space;
`THR = 0` cannot be set and is no legal reset value. -/
def Obligations.ThresholdAboveWindowIsMark : Prop :=
  ∀ s : State,
    (s.win.toNat < s.thr.toNat → (discriminate s).1 = .mark) ∧
    (s.thr = 1 → 1 ≤ (windowLoop s.win.toNat 0 s).1 → (discriminate s).1 = .space) ∧
    (∀ n : Arg, s.win.toNat < n.toNat → ∃ t, exec (.setThreshold n) s = .next t ∧ t.thr = n ∧ t.win = s.win) ∧
    (∀ (n : Arg) (t : State), s.thr ≠ 0 → exec (.setThreshold n) s = .next t → t.thr ≠ 0) ∧
    (∀ p : Params, p.Legal → p.thr0 ≠ 0)

/-! ## Time (spec/41_framing.md R120) -/

/-- R120: the time predicates on the wrapping clock, on the integers the times denote. -/
def Obligations.TimePredicatesWrap : Prop :=
  (∀ a now : Time, (elapsed a now).toNat = (now.toNat + 2 ^ 32 - a.toNat) % 2 ^ 32) ∧
  (∀ (s : State) (now : Time), halfDone s now = true ↔ s.halfp.toNat ≤ (elapsed s.tStart now).toNat) ∧
  (∀ t now : Time, reached t now = true ↔ (now.toNat + 2 ^ 32 - t.toNat) % 2 ^ 32 < 2 ^ 31)

/-- R235: on times counted without wrap and less than 2^31 microseconds apart, `reached` says exactly that the instant has
passed, and `elapsed` is exactly the time gone by. -/
def Obligations.TimelyClockIsReadExactly : Prop :=
  ∀ t now : Nat, Timely t now →
    (reached (BitVec.ofNat 32 t) (BitVec.ofNat 32 now) = true ↔ t ≤ now) ∧
    (t ≤ now → (elapsed (BitVec.ofNat 32 t) (BitVec.ofNat 32 now)).toNat = now - t)

/-! ## STEP (spec/41_framing.md) -/

/-- R121, R212: STEP is `0x02xxxxxx`; it completes in exactly the states where INIT has run; else it is the model fault
`NotInitialised`, which pulls no sample and has no next state. -/
def Obligations.StepCompletesExactlyAfterInit : Prop :=
  (∀ a : Arg, decode .P (mkWord 0x02 a) = .ok .step) ∧
  ∀ s : State,
    (s.initDone = true → ∃ tone now w, observe s = (tone, now, w) ∧
      exec .step s = .next ((frameStep tone now w).respond .P .ack)) ∧
    (s.initDone = false → exec .step s = .fault .notInitialised)

/-- R121: a STEP observes one whole window and then one clock value; that changes `PREV` and the inputs, nothing else. R79: the
`now` and the samples supplied to a STEP reach that STEP, whatever the shared queues hold, and these are left as they were; that
samples beyond `WIN` are dropped is the model's choice (notes/assumptions/18.md). -/
def Obligations.StepObservesWindowThenClock : Prop :=
  (∀ (s w : State) (tone : Tone) (now : Time), observe s = (tone, now, w) →
    tone = (discriminate s).1 ∧ w.prev = (discriminate s).2.prev ∧ w.samples = (discriminate s).2.samples ∧
    (∀ t rest, s.clock = t :: rest → now = t ∧ w.clock = rest) ∧ (s.clock = [] → w.clock = []) ∧
    w = { s with prev := w.prev, samples := w.samples, clock := w.clock, drawn := w.drawn }) ∧
  (∀ (s s' w : State) (port : Port) (c : Issued) (tone : Tone) (now : Time),
    takeCommand s = some (port, c.word, s') → s.waiting port = c :: s'.waiting port → opField c.word = 0x02 →
    observe s' = (tone, now, w) →
    (∀ t, c.inputs.now = some t → now = t ∧ w.clock = s.clock) ∧
    (s.win.toNat ≤ c.inputs.window.length →
      (pullMany s.win.toNat s').1 = (c.inputs.window.take s.win.toNat).map (asSample s.cfg) ∧ w.samples = s.samples))

/-- R122: in Idle a Space starts a candidate at `now`, and a Mark changes nothing. -/
def Obligations.IdleStepWaitsForSpace : Prop :=
  ∀ (s w : State) (tone : Tone) (now : Time), s.initDone = true → s.fstate = .idle → observe s = (tone, now, w) →
    (tone = .space → exec .step s = .next ({ w with tStart := now, fstate := .startConfirm }.respond .P .ack)) ∧
    (tone = .mark → exec .step s = .next (w.respond .P .ack))

/-- R123 to R125: in StartConfirm nothing changes before half a bit period; then Space confirms, on the base `T_START`, and Mark
rejects. -/
def Obligations.StartConfirmStepDecidesAtHalfBit : Prop :=
  ∀ (s w : State) (tone : Tone) (now : Time),
    s.initDone = true → s.fstate = .startConfirm → observe s = (tone, now, w) →
    (halfDone s now = false → exec .step s = .next (w.respond .P .ack)) ∧
    (halfDone s now = true → tone = .space →
      exec .step s = .next ({ w with
        tNext := s.tStart + s.bitp + s.halfp, acc := 0, cnt := 0, fstate := .dataBits }.respond .P .ack)) ∧
    (halfDone s now = true → tone = .mark →
      exec .step s = .next ({ w with fstate := .idle, acc := 0, cnt := 0 }.respond .P .ack))

/-- R126 to R129: in DataBits nothing changes before the scheduled instant; then one bit, Mark 1 and Space 0, goes to `ACC[CNT]`,
`T_NEXT` advances by `BITP` from itself, and the fifth bit leads to StopBits. -/
def Obligations.DataBitsStepSamplesOneBit : Prop :=
  ∀ (s w : State) (tone : Tone) (now : Time),
    s.initDone = true → s.fstate = .dataBits → observe s = (tone, now, w) →
    (reached s.tNext now = false → exec .step s = .next (w.respond .P .ack)) ∧
    (reached s.tNext now = true → s.cnt.toNat ≤ 4 →
      exec .step s = .next ({ w with
        acc := s.acc ||| ((if tone = Tone.mark then 1#5 else 0#5) <<< s.cnt.toNat)
        cnt := s.cnt + 1
        tNext := s.tNext + s.bitp
        fstate := if s.cnt = 4 then .stopBits else .dataBits }.respond .P .ack))

/-- R130 to R132: in StopBits nothing changes before the scheduled instant; then Mark hands the code to the codec and its
character, if any, to the ring, and Space discards the bits; either way the accumulator resets and Idle follows. -/
def Obligations.StopBitsStepDeliversOrDiscards : Prop :=
  ∀ (s w : State) (tone : Tone) (now : Time),
    s.initDone = true → s.fstate = .stopBits → observe s = (tone, now, w) →
    (reached s.tNext now = false → exec .step s = .next (w.respond .P .ack)) ∧
    (reached s.tNext now = true → tone = .mark → ∀ (ch : Option Byte) (sh : ShiftState),
      baudotDecode s.cfg s.acc s.shift = (ch, sh) →
      (∀ c, ch = some c → exec .step s =
        .next ({ push c { w with shift := sh } with acc := 0, cnt := 0, fstate := .idle }.respond .P .ack)) ∧
      (ch = none → exec .step s =
        .next ({ w with shift := sh, acc := 0, cnt := 0, fstate := .idle }.respond .P .ack))) ∧
    (reached s.tNext now = true → tone = .space →
      exec .step s = .next ({ w with acc := 0, cnt := 0, fstate := .idle }.respond .P .ack))

/-- The frame of STEP: configuration, `INIT_DONE`, ports and port C's responses are unchanged; every cell but the one a PUSH
writes reads as before; and a STEP that delivers no character leaves the whole ring as it was. -/
def Obligations.StepFrame : Prop :=
  ∀ (s w t : State) (tone : Tone) (now : Time), observe s = (tone, now, w) → exec .step s = .next t →
    SameConfig s t ∧ t.initDone = s.initDone ∧ SamePorts s t ∧ t.respC = s.respC ∧
    (∀ a, a ≠ pushIndex w → t.rbuf.read a = s.rbuf.read a) ∧
    (¬ (s.fstate = .stopBits ∧ reached s.tNext now = true ∧ tone = .mark) → SameRing s t ∧ t.shift = s.shift) ∧
    ((baudotDecode s.cfg s.acc s.shift).1 = none → SameRing s t)

/-! ## The codec (spec/42_codec.md) -/

/-- R150, R156: the shift codes emit nothing and set the shift state; any other code indexes the table of the current shift
state, which it keeps; so after a shift code a data code yields that table's character. -/
def Obligations.CodecFollowsTheTables : Prop :=
  ∀ (p : Params) (code : Code) (sh : ShiftState),
    (code = p.figsCode → baudotDecode p code sh = (none, .figures)) ∧
    (code ≠ p.figsCode → code = p.ltrsCode → baudotDecode p code sh = (none, .letters)) ∧
    (code ≠ p.figsCode → code ≠ p.ltrsCode →
      baudotDecode p code .letters = (p.ltrTable[code.toNat], .letters) ∧
      baudotDecode p code .figures = (p.figTable[code.toNat], .figures)) ∧
    (code ≠ p.figsCode → code ≠ p.ltrsCode → p.figsCode ≠ p.ltrsCode →
      baudotDecode p code (baudotDecode p p.figsCode sh).2 = (p.figTable[code.toNat], .figures) ∧
      baudotDecode p code (baudotDecode p p.ltrsCode sh).2 = (p.ltrTable[code.toNat], .letters)) ∧
    (p.Legal → baudotDecode p 0 sh = (none, sh) ∧ (baudotDecode p code sh).1 ≠ some 0)

/-- R155: over all commands, `SHIFT` changes only when a STEP decodes a shift code at a valid stop bit. -/
def Obligations.OnlyShiftCodesChangeShift : Prop :=
  ∀ (i : Instr) (s t : State), exec i s = .next t → t.shift ≠ s.shift →
    i = .step ∧ s.fstate = .stopBits ∧
    (∃ (now : Time) (w : State), observe s = (.mark, now, w) ∧ reached s.tNext now = true) ∧
    ((s.acc = s.cfg.figsCode ∧ t.shift = .figures) ∨ (s.acc = s.cfg.ltrsCode ∧ t.shift = .letters))

/-! ## The ring (spec/43_ring.md) -/

/-- R170: on the queue of unread characters a PUSH appends its character, and drops exactly the oldest where the queue holds
`P_RING_N - 1`; it writes one cell and leaves the others. -/
def Obligations.PushAppendsAndDropsOldest : Prop :=
  ∀ (c : Byte) (s : State), 2 ≤ s.cfg.ringN → s.cfg.ringN ≤ 65536 → s.wptr.toNat < s.cfg.ringN → s.rptr.toNat < s.cfg.ringN →
    unread (push c s) = (if (unread s).length = s.cfg.ringN - 1 then (unread s).tail else unread s) ++ [c] ∧
    (push c s).wptr.toNat = (s.wptr.toNat + 1) % s.cfg.ringN ∧
    ((push c s).rptr.toNat =
      if (unread s).length = s.cfg.ringN - 1 then (s.rptr.toNat + 1) % s.cfg.ringN else s.rptr.toNat) ∧
    (unread (push c s)).length ≤ s.cfg.ringN - 1 ∧
    (push c s).rbuf.read s.wptr.toNat = some c ∧
    (∀ a, a ≠ s.wptr.toNat → (push c s).rbuf.read a = s.rbuf.read a) ∧
    push c s = { s with rbuf := (push c s).rbuf, wptr := (push c s).wptr, rptr := (push c s).rptr }

/-- R171: a DRAIN returns the oldest characters in order, at most `m`, and leaves the rest for the next call; with nothing to
return it changes nothing. The clause on `AVAIL` where `WPTR` is below `RPTR` is the model's reading of R38's `mod` on a negative
difference (DEDUCED, notes/assumptions/11.md). -/
def Obligations.DrainTakesFromTheFront : Prop :=
  ∀ (m : Nat) (s : State), 2 ≤ s.cfg.ringN → s.cfg.ringN ≤ 65536 → s.wptr.toNat < s.cfg.ringN → s.rptr.toNat < s.cfg.ringN →
    (drain m s).1 = (unread s).take m ∧ unread (drain m s).2 = (unread s).drop m ∧
    (drain m s).2 = { s with rptr := BitVec.ofNat 16 ((s.rptr.toNat + min (avail s) m) % s.cfg.ringN) } ∧
    avail s = (if s.rptr.toNat ≤ s.wptr.toNat then s.wptr.toNat - s.rptr.toNat
      else s.wptr.toNat + s.cfg.ringN - s.rptr.toNat) ∧
    (m = 0 ∨ s.wptr = s.rptr → drain m s = ([], s))

/-- R172: DRAIN_TEXT is `0x03` and `maxLen`; it completes in every state, on either port. -/
def Obligations.DrainTextReturnsTextAndTerminator : Prop :=
  ∀ (port : Port) (maxLen : Arg) (s : State), decode port (mkWord 0x03 maxLen) = .ok (.drainText port maxLen) ∧
    (maxLen = 0 → exec (.drainText port maxLen) s = .next (s.respond port (.text 0 []))) ∧
    (maxLen ≠ 0 → ∀ (out : List Byte) (s' : State), drain (maxLen.toNat - 1) s = (out, s') →
      out.length = min (avail s) (maxLen.toNat - 1) ∧ (BitVec.ofNat 24 out.length).toNat = out.length ∧
      exec (.drainText port maxLen) s = .next (s'.respond port (.text (BitVec.ofNat 24 out.length) (out ++ [0]))))

/-- The frame of DRAIN_TEXT: it writes `RPTR` and answers on its port; every cell and every other register is unchanged. -/
def Obligations.DrainTextFrame : Prop :=
  ∀ (port : Port) (maxLen : Arg) (s t : State), exec (.drainText port maxLen) s = .next t →
    t = { s with rptr := t.rptr, respP := t.respP, respC := t.respC } ∧
    (∀ a, t.rbuf.read a = s.rbuf.read a) ∧ (∀ q, q ≠ port → t.responses q = s.responses q) ∧
    (maxLen.toNat ≤ 1 → s.rptr.toNat < s.cfg.ringN → t.rptr = s.rptr)

/-- R173: pushing any characters into an empty ring and draining everything returns the last `P_RING_N - 1` of them in order; of
`N + 5`, exactly the oldest six are dropped. -/
def Obligations.OverflowKeepsTheNewest : Prop :=
  ∀ (s : State) (cs : List Byte), 2 ≤ s.cfg.ringN → s.cfg.ringN ≤ 65536 → s.wptr.toNat < s.cfg.ringN → s.wptr = s.rptr →
    ∀ m, s.cfg.ringN - 1 ≤ m →
      (drain m (pushAll cs s)).1 = cs.drop (cs.length - (s.cfg.ringN - 1)) ∧
      (cs.length = s.cfg.ringN + 5 →
        (drain m (pushAll cs s)).1 = cs.drop 6 ∧ (drain m (pushAll cs s)).1.length = s.cfg.ringN - 1)

/-! ## Whole frames -/

/-- R137 with R124 to R131: from Idle, a Space at `t0`, a Space at the half-bit check, five tones at or after their instants
`t0 + B + H + k·B` and a Mark at or after the stop instant deliver exactly the code those tones spell, whatever the times are
beyond that, and return to Idle. -/
def Obligations.FrameDeliversItsCode : Prop :=
  ∀ (s : State) (code : Code) (t0 n1 : Time) (n : Fin 6 → Time),
    s.fstate = .idle → s.acc = 0 → s.cnt = 0 → s.halfp.toNat ≤ (elapsed t0 n1).toNat →
    (∀ k : Fin 6, reached (t0 + s.bitp + s.halfp + BitVec.ofNat 32 k.val * s.bitp) (n k) = true) →
    frameSteps [(.space, t0), (.space, n1), (toneOfBit code 0, n 0), (toneOfBit code 1, n 1), (toneOfBit code 2, n 2),
        (toneOfBit code 3, n 3), (toneOfBit code 4, n 4), (.mark, n 5)] s =
      deliver (baudotDecode s.cfg code s.shift).1 { s with
        shift := (baudotDecode s.cfg code s.shift).2
        tStart := t0
        tNext := t0 + s.bitp + s.halfp + 5#32 * s.bitp }

/-- R132, source §8: the same frame with a Space at the stop instant emits nothing, leaves `SHIFT` alone and returns to Idle;
a Space in the very next STEP starts a new candidate. -/
def Obligations.FramingErrorEmitsNothing : Prop :=
  ∀ (s : State) (code : Code) (t0 n1 t1 : Time) (n : Fin 6 → Time),
    s.fstate = .idle → s.acc = 0 → s.cnt = 0 → s.halfp.toNat ≤ (elapsed t0 n1).toNat →
    (∀ k : Fin 6, reached (t0 + s.bitp + s.halfp + BitVec.ofNat 32 k.val * s.bitp) (n k) = true) →
    frameSteps [(.space, t0), (.space, n1), (toneOfBit code 0, n 0), (toneOfBit code 1, n 1), (toneOfBit code 2, n 2),
        (toneOfBit code 3, n 3), (toneOfBit code 4, n 4), (.space, n 5), (.space, t1)] s =
      { s with fstate := .startConfirm, tStart := t1, tNext := t0 + s.bitp + s.halfp + 5#32 * s.bitp }

/-! ## Whole-machine rules -/

/-- R21: `FSTATE` moves only along the transitions of R122 to R132, and only in a STEP; INIT sets it to Idle. -/
def Obligations.FramingStateMovesOnlyAsListed : Prop :=
  ∀ (i : Instr) (s t : State), exec i s = .next t → t.fstate ≠ s.fstate →
    (i = .init ∧ t.fstate = .idle) ∨
    (i = .step ∧ (s.fstate, t.fstate) ∈ [(FramingState.idle, .startConfirm), (.startConfirm, .dataBits),
      (.startConfirm, .idle), (.dataBits, .stopBits), (.stopBits, .idle)])

/-- R217: the only ways a step stops are the model's: the fault of a STEP before INIT, and a refusal at decode. No command is
refused by its meaning, and no other command faults. -/
def Obligations.OnlyStepBeforeInitFaults : Prop :=
  (∀ (i : Instr) (s : State) (r : Fault), exec i s = .fault r ↔ i = .step ∧ s.initDone = false) ∧
  (∀ (i : Instr) (s : State) (r : Refusal), exec i s ≠ .refused r) ∧
  (∀ (s : State) (r : Refusal), step s = .refused r →
    ∃ port w s' e, takeCommand s = some (port, w, s') ∧ decode port w = .error e)

/-- R29: `INIT_DONE` is 0 from reset until an INIT sets it, and no step clears it; a STEP while it is 0 is the model fault. -/
def Obligations.InitDoneStaysSet : Prop :=
  (∀ p : Params, (State.resetWith p).initDone = false) ∧
  (∀ s t : State, exec .init s = .next t → t.initDone = true) ∧
  (∀ s : State, s.initDone = false → exec .step s = .fault .notInitialised) ∧
  ∀ s t : State, step s = .next t →
    (s.initDone = true → t.initDone = true) ∧
    (s.initDone = false → t.initDone = true → ∃ port w s', takeCommand s = some (port, w, s') ∧ decode port w = .ok .init)

/-- R27, R195: `DBG` has no effect: every command does the same with it set either way. -/
def Obligations.DebugHasNoEffect : Prop :=
  ∀ (i : Instr) (s : State) (d : Bool), (∀ e, i ≠ .setDebug e) →
    exec i { s with dbg := d } = mapNext (fun t => { t with dbg := d }) (exec i s)

/-- R41: no command but DRAIN_TEXT lets the ring or port C's side affect any other state: two states that differ only in these
still differ only in these after it. (PUSH reads the cursors, but only to write the ring.) -/
def Obligations.RingReachesTheRestOnlyThroughDrainText : Prop :=
  ∀ (i : Instr) (s s' : State), (∀ p m, i ≠ .drainText p m) → s.producerView = s'.producerView →
    mapNext State.producerView (exec i s) = mapNext State.producerView (exec i s')

/-- R60: a DRAIN that lands inside a STEP, between its observation and its transition, is a DRAIN before that STEP. -/
def Obligations.DrainInsideStepIsDrainBefore : Prop :=
  ∀ (m : Nat) (s w : State) (tone : Tone) (now : Time), observe s = (tone, now, w) →
    observe (drain m s).2 = (tone, now, (drain m w).2) ∧ (drain m s).1 = (drain m w).1

/-! ## Reset and invariants -/

/-- R231: the reset value of every element the spec gives one. `PREV` and the ring's cells have none there and are not named
here. -/
def Obligations.ResetValuesAreAsListed : Prop :=
  (∀ p : Params, let s := State.resetWith p
    s.cfg = p ∧ s.baud = p.baud0 ∧ s.bitp = bitp p.baud0 ∧ s.halfp.toNat = (bitp p.baud0).toNat / 2 ∧ s.win = p.win0 ∧
    s.thr = p.thr0 ∧ s.dbg = false ∧ s.initDone = false ∧ s.fstate = .idle ∧ s.tStart = 0 ∧ s.tNext = 0 ∧ s.acc = 0 ∧
    s.cnt = 0 ∧ s.shift = .letters ∧ s.wptr = 0 ∧ s.rptr = 0) ∧
  State.reset.baud = 4545 ∧ State.reset.bitp = 22002 ∧ State.reset.halfp = 11001

/-- The reset machine's parameters meet the constraints of R5, whatever the open ones are, and `construct` at any legal
parameters meets the invariant. -/
def Obligations.ResetMeetsTheInvariant : Prop :=
  Params.spec.Legal ∧ ∀ p : Params, p.Legal → (State.resetWith p).Inv

/-- R40, points 1 to 5: every step keeps the framing invariant. -/
def Obligations.StepKeepsFramingInvariant : Prop :=
  ∀ s t : State, s.FramingInv → step s = .next t → t.FramingInv

/-- R40, points 6 and 7, with R36: every step keeps the ring invariant, the canonical form of its cells among it. -/
def Obligations.StepKeepsRingInvariant : Prop :=
  ∀ s t : State, s.cfg.Legal → s.RingInv → step s = .next t → t.RingInv

/-- R22 to R26: every step keeps the configuration registers positive and the periods those of `BAUD`. That no step changes the
parameters is the model's own clause, about a field of its own (DESIGN CHOICE, notes/assumptions/2.md, for the arguments of
R5). -/
def Obligations.StepKeepsConfiguration : Prop :=
  ∀ s t : State, step s = .next t → t.cfg = s.cfg ∧ (s.ConfigInv → t.ConfigInv)

/-- R28, R100: every step keeps `PREV` a centred sample once INIT has run. -/
def Obligations.StepKeepsPrevCentred : Prop :=
  ∀ s t : State, s.PrevInv → step s = .next t → t.PrevInv

/-- R40 "In every reachable state", for every interleaving of the ports and every input, and with it what the model adds:
the parameters (notes/assumptions/2.md), the canonical form of the cells (4.md), the runs themselves (6.md), and the invariants
of the configuration registers and of `PREV`. -/
def Obligations.ReachableStatesMeetTheInvariant : Prop :=
  ∀ (p : Params) (s : State), p.Legal → Reachable p s → s.cfg = p ∧ s.Inv
end

