-- ==== Sys2Proof/Laws/Encoding.lean ====
section
/-! SUPPORT. The fields of an assembled word are the ones put in, and a word is its two fields (spec/30_encoding.md R70). -/

namespace Sys2Proof

theorem opField_mkWord (op : BitVec 8) (arg : Arg) : opField (mkWord op arg) = op := by
  apply BitVec.eq_of_toNat_eq
  have := arg.isLt
  have := op.isLt
  simp only [opField, mkWord, BitVec.extractLsb'_toNat, BitVec.toNat_append]
  rw [← Nat.shiftLeft_add_eq_or_of_lt arg.isLt, Nat.shiftLeft_eq, Nat.shiftRight_eq_div_pow]
  omega

theorem argField_mkWord (op : BitVec 8) (arg : Arg) : argField (mkWord op arg) = arg := by
  apply BitVec.eq_of_toNat_eq
  have := arg.isLt
  have := op.isLt
  simp only [argField, mkWord, BitVec.extractLsb'_toNat, BitVec.toNat_append]
  rw [← Nat.shiftLeft_add_eq_or_of_lt arg.isLt, Nat.shiftLeft_eq]
  omega

theorem mkWord_fields (w : Word) : mkWord (opField w) (argField w) = w := by
  apply BitVec.eq_of_toNat_eq
  have := w.isLt
  simp only [opField, argField, mkWord, BitVec.extractLsb'_toNat, BitVec.toNat_append]
  rw [← Nat.shiftLeft_add_eq_or_of_lt (by omega), Nat.shiftLeft_eq, Nat.shiftRight_eq_div_pow, Nat.shiftRight_zero]
  omega

theorem wordOfBytes_wordBytes (w : Word) : wordOfBytes (wordBytes w) = some w := by
  simp only [wordBytes, wordOfBytes, Option.some.injEq]
  apply BitVec.eq_of_getLsbD_eq
  intro i hi
  simp only [BitVec.getLsbD_append, BitVec.getLsbD_extractLsb']
  interval_cases i <;> simp

end Sys2Proof
end

