-- ==== Sys2Proof/Laws/State.lean ====
section
/-! SUPPORT. One lemma for each field and each named update of the state, so that no later proof unfolds one. -/

namespace Sys2Proof.Machine

/-! ## respond -/

@[simp] theorem respond_cfg (s : State) (p : Port) (r : Response) : (s.respond p r).cfg = s.cfg := by cases p <;> rfl
@[simp] theorem respond_baud (s : State) (p : Port) (r : Response) : (s.respond p r).baud = s.baud := by cases p <;> rfl
@[simp] theorem respond_bitp (s : State) (p : Port) (r : Response) : (s.respond p r).bitp = s.bitp := by cases p <;> rfl
@[simp] theorem respond_halfp (s : State) (p : Port) (r : Response) : (s.respond p r).halfp = s.halfp := by cases p <;> rfl
@[simp] theorem respond_win (s : State) (p : Port) (r : Response) : (s.respond p r).win = s.win := by cases p <;> rfl
@[simp] theorem respond_thr (s : State) (p : Port) (r : Response) : (s.respond p r).thr = s.thr := by cases p <;> rfl
@[simp] theorem respond_dbg (s : State) (p : Port) (r : Response) : (s.respond p r).dbg = s.dbg := by cases p <;> rfl
@[simp] theorem respond_prev (s : State) (p : Port) (r : Response) : (s.respond p r).prev = s.prev := by cases p <;> rfl
@[simp] theorem respond_initDone (s : State) (p : Port) (r : Response) : (s.respond p r).initDone = s.initDone := by cases p <;> rfl
@[simp] theorem respond_fstate (s : State) (p : Port) (r : Response) : (s.respond p r).fstate = s.fstate := by cases p <;> rfl
@[simp] theorem respond_tStart (s : State) (p : Port) (r : Response) : (s.respond p r).tStart = s.tStart := by cases p <;> rfl
@[simp] theorem respond_tNext (s : State) (p : Port) (r : Response) : (s.respond p r).tNext = s.tNext := by cases p <;> rfl
@[simp] theorem respond_acc (s : State) (p : Port) (r : Response) : (s.respond p r).acc = s.acc := by cases p <;> rfl
@[simp] theorem respond_cnt (s : State) (p : Port) (r : Response) : (s.respond p r).cnt = s.cnt := by cases p <;> rfl
@[simp] theorem respond_shift (s : State) (p : Port) (r : Response) : (s.respond p r).shift = s.shift := by cases p <;> rfl
@[simp] theorem respond_rbuf (s : State) (p : Port) (r : Response) : (s.respond p r).rbuf = s.rbuf := by cases p <;> rfl
@[simp] theorem respond_wptr (s : State) (p : Port) (r : Response) : (s.respond p r).wptr = s.wptr := by cases p <;> rfl
@[simp] theorem respond_rptr (s : State) (p : Port) (r : Response) : (s.respond p r).rptr = s.rptr := by cases p <;> rfl
@[simp] theorem respond_portP (s : State) (p : Port) (r : Response) : (s.respond p r).portP = s.portP := by cases p <;> rfl
@[simp] theorem respond_portC (s : State) (p : Port) (r : Response) : (s.respond p r).portC = s.portC := by cases p <;> rfl
@[simp] theorem respond_arb (s : State) (p : Port) (r : Response) : (s.respond p r).arb = s.arb := by cases p <;> rfl
@[simp] theorem respond_samples (s : State) (p : Port) (r : Response) : (s.respond p r).samples = s.samples := by cases p <;> rfl
@[simp] theorem respond_clock (s : State) (p : Port) (r : Response) : (s.respond p r).clock = s.clock := by cases p <;> rfl
@[simp] theorem respond_drawn (s : State) (p : Port) (r : Response) : (s.respond p r).drawn = s.drawn := by cases p <;> rfl
@[simp] theorem respond_P_respP (s : State) (r : Response) : (s.respond .P r).respP = s.respP ++ [r] := rfl
@[simp] theorem respond_P_respC (s : State) (r : Response) : (s.respond .P r).respC = s.respC := rfl
@[simp] theorem respond_C_respP (s : State) (r : Response) : (s.respond .C r).respP = s.respP := rfl
@[simp] theorem respond_C_respC (s : State) (r : Response) : (s.respond .C r).respC = s.respC ++ [r] := rfl

/-! ## clearAcc -/

@[simp] theorem clearAcc_cfg (s : State) : (clearAcc s).cfg = s.cfg := rfl
@[simp] theorem clearAcc_baud (s : State) : (clearAcc s).baud = s.baud := rfl
@[simp] theorem clearAcc_bitp (s : State) : (clearAcc s).bitp = s.bitp := rfl
@[simp] theorem clearAcc_halfp (s : State) : (clearAcc s).halfp = s.halfp := rfl
@[simp] theorem clearAcc_win (s : State) : (clearAcc s).win = s.win := rfl
@[simp] theorem clearAcc_thr (s : State) : (clearAcc s).thr = s.thr := rfl
@[simp] theorem clearAcc_dbg (s : State) : (clearAcc s).dbg = s.dbg := rfl
@[simp] theorem clearAcc_prev (s : State) : (clearAcc s).prev = s.prev := rfl
@[simp] theorem clearAcc_initDone (s : State) : (clearAcc s).initDone = s.initDone := rfl
@[simp] theorem clearAcc_fstate (s : State) : (clearAcc s).fstate = s.fstate := rfl
@[simp] theorem clearAcc_tStart (s : State) : (clearAcc s).tStart = s.tStart := rfl
@[simp] theorem clearAcc_tNext (s : State) : (clearAcc s).tNext = s.tNext := rfl
@[simp] theorem clearAcc_acc (s : State) : (clearAcc s).acc = 0 := rfl
@[simp] theorem clearAcc_cnt (s : State) : (clearAcc s).cnt = 0 := rfl
@[simp] theorem clearAcc_shift (s : State) : (clearAcc s).shift = s.shift := rfl
@[simp] theorem clearAcc_rbuf (s : State) : (clearAcc s).rbuf = s.rbuf := rfl
@[simp] theorem clearAcc_wptr (s : State) : (clearAcc s).wptr = s.wptr := rfl
@[simp] theorem clearAcc_rptr (s : State) : (clearAcc s).rptr = s.rptr := rfl
@[simp] theorem clearAcc_portP (s : State) : (clearAcc s).portP = s.portP := rfl
@[simp] theorem clearAcc_portC (s : State) : (clearAcc s).portC = s.portC := rfl
@[simp] theorem clearAcc_arb (s : State) : (clearAcc s).arb = s.arb := rfl
@[simp] theorem clearAcc_samples (s : State) : (clearAcc s).samples = s.samples := rfl
@[simp] theorem clearAcc_clock (s : State) : (clearAcc s).clock = s.clock := rfl
@[simp] theorem clearAcc_drawn (s : State) : (clearAcc s).drawn = s.drawn := rfl
@[simp] theorem clearAcc_respP (s : State) : (clearAcc s).respP = s.respP := rfl
@[simp] theorem clearAcc_respC (s : State) : (clearAcc s).respC = s.respC := rfl

/-! ## ringWrite -/

@[simp] theorem ringWrite_cfg (s : State) (i : Nat) (c : Byte) : (ringWrite s i c).cfg = s.cfg := rfl
@[simp] theorem ringWrite_baud (s : State) (i : Nat) (c : Byte) : (ringWrite s i c).baud = s.baud := rfl
@[simp] theorem ringWrite_bitp (s : State) (i : Nat) (c : Byte) : (ringWrite s i c).bitp = s.bitp := rfl
@[simp] theorem ringWrite_halfp (s : State) (i : Nat) (c : Byte) : (ringWrite s i c).halfp = s.halfp := rfl
@[simp] theorem ringWrite_win (s : State) (i : Nat) (c : Byte) : (ringWrite s i c).win = s.win := rfl
@[simp] theorem ringWrite_thr (s : State) (i : Nat) (c : Byte) : (ringWrite s i c).thr = s.thr := rfl
@[simp] theorem ringWrite_dbg (s : State) (i : Nat) (c : Byte) : (ringWrite s i c).dbg = s.dbg := rfl
@[simp] theorem ringWrite_prev (s : State) (i : Nat) (c : Byte) : (ringWrite s i c).prev = s.prev := rfl
@[simp] theorem ringWrite_initDone (s : State) (i : Nat) (c : Byte) : (ringWrite s i c).initDone = s.initDone := rfl
@[simp] theorem ringWrite_fstate (s : State) (i : Nat) (c : Byte) : (ringWrite s i c).fstate = s.fstate := rfl
@[simp] theorem ringWrite_tStart (s : State) (i : Nat) (c : Byte) : (ringWrite s i c).tStart = s.tStart := rfl
@[simp] theorem ringWrite_tNext (s : State) (i : Nat) (c : Byte) : (ringWrite s i c).tNext = s.tNext := rfl
@[simp] theorem ringWrite_acc (s : State) (i : Nat) (c : Byte) : (ringWrite s i c).acc = s.acc := rfl
@[simp] theorem ringWrite_cnt (s : State) (i : Nat) (c : Byte) : (ringWrite s i c).cnt = s.cnt := rfl
@[simp] theorem ringWrite_shift (s : State) (i : Nat) (c : Byte) : (ringWrite s i c).shift = s.shift := rfl
@[simp] theorem ringWrite_rbuf (s : State) (i : Nat) (c : Byte) : (ringWrite s i c).rbuf = s.rbuf.write i c := rfl
@[simp] theorem ringWrite_wptr (s : State) (i : Nat) (c : Byte) : (ringWrite s i c).wptr = s.wptr := rfl
@[simp] theorem ringWrite_rptr (s : State) (i : Nat) (c : Byte) : (ringWrite s i c).rptr = s.rptr := rfl
@[simp] theorem ringWrite_portP (s : State) (i : Nat) (c : Byte) : (ringWrite s i c).portP = s.portP := rfl
@[simp] theorem ringWrite_portC (s : State) (i : Nat) (c : Byte) : (ringWrite s i c).portC = s.portC := rfl
@[simp] theorem ringWrite_arb (s : State) (i : Nat) (c : Byte) : (ringWrite s i c).arb = s.arb := rfl
@[simp] theorem ringWrite_samples (s : State) (i : Nat) (c : Byte) : (ringWrite s i c).samples = s.samples := rfl
@[simp] theorem ringWrite_clock (s : State) (i : Nat) (c : Byte) : (ringWrite s i c).clock = s.clock := rfl
@[simp] theorem ringWrite_drawn (s : State) (i : Nat) (c : Byte) : (ringWrite s i c).drawn = s.drawn := rfl
@[simp] theorem ringWrite_respP (s : State) (i : Nat) (c : Byte) : (ringWrite s i c).respP = s.respP := rfl
@[simp] theorem ringWrite_respC (s : State) (i : Nat) (c : Byte) : (ringWrite s i c).respC = s.respC := rfl

/-! ## resetWith -/

@[simp] theorem resetWith_cfg (p : Params) : (State.resetWith p).cfg = p := rfl
@[simp] theorem resetWith_win (p : Params) : (State.resetWith p).win = p.win0 := rfl
@[simp] theorem resetWith_thr (p : Params) : (State.resetWith p).thr = p.thr0 := rfl
@[simp] theorem resetWith_baud (p : Params) : (State.resetWith p).baud = p.baud0 := rfl
@[simp] theorem resetWith_rbuf (p : Params) : (State.resetWith p).rbuf = [] := rfl
@[simp] theorem resetWith_wptr (p : Params) : (State.resetWith p).wptr = 0 := rfl
@[simp] theorem resetWith_rptr (p : Params) : (State.resetWith p).rptr = 0 := rfl
@[simp] theorem resetWith_initDone (p : Params) : (State.resetWith p).initDone = false := rfl
@[simp] theorem resetWith_fstate (p : Params) : (State.resetWith p).fstate = .idle := rfl
@[simp] theorem resetWith_acc (p : Params) : (State.resetWith p).acc = 0 := rfl
@[simp] theorem resetWith_cnt (p : Params) : (State.resetWith p).cnt = 0 := rfl

end Sys2Proof.Machine
end

