-- ==== Sys2Proof/Laws/Inputs.lean ====
section
/-! SUPPORT. What the input operations can do: each consumes from its own queue or draws a free value, and changes nothing else. -/

namespace Sys2Proof.Machine

theorem pull_state (s : State) :
    (pull s).2 = { s with samples := (pull s).2.samples, drawn := (pull s).2.drawn } := by
  unfold pull; split <;> rfl

theorem readClock_state (s : State) :
    (readClock s).2 = { s with clock := (readClock s).2.clock, drawn := (readClock s).2.drawn } := by
  unfold readClock; split <;> rfl

theorem pullCentred_state (s : State) :
    (pullCentred s).2 = { s with samples := (pullCentred s).2.samples, drawn := (pullCentred s).2.drawn } :=
  pull_state s

/-- A window changes PREV and the sample source, nothing else. -/
theorem windowLoop_state (n count : Nat) (s : State) :
    (windowLoop n count s).2 = { s with
      prev := (windowLoop n count s).2.prev
      samples := (windowLoop n count s).2.samples
      drawn := (windowLoop n count s).2.drawn } := by
  induction n generalizing count s with
  | zero => rfl
  | succ n ih => simp only [windowLoop]; rw [ih, pullCentred_state s]

/-- What a STEP observes changes PREV and the inputs, nothing else. -/
theorem observe_state (s : State) :
    (observe s).2.2 = { s with
      prev := (observe s).2.2.prev
      samples := (observe s).2.2.samples
      clock := (observe s).2.2.clock
      drawn := (observe s).2.2.drawn } := by
  simp only [observe, discriminate]
  rw [readClock_state, windowLoop_state]

/-- `observe_state` for a named result. -/
theorem observe_eq {s w : State} {tone : Tone} {now : Time} (h : observe s = (tone, now, w)) :
    w = { s with prev := w.prev, samples := w.samples, clock := w.clock, drawn := w.drawn } := by
  have := observe_state s; rw [h] at this; exact this

/-- A window does not touch the clock. -/
theorem discriminate_state (s : State) :
    (discriminate s).2 = { s with
      prev := (discriminate s).2.prev
      samples := (discriminate s).2.samples
      drawn := (discriminate s).2.drawn } :=
  windowLoop_state _ _ _

/-- A delivered sample fits `P_SAMPLE_W` bits (R54). -/
theorem asSample_lt (p : Params) (x : Sample) : (asSample p x).toNat < 2 ^ p.sampleW :=
  Nat.lt_of_le_of_lt (by simpa [asSample] using Nat.mod_le _ _) (Nat.mod_lt x.toNat (Nat.two_pow_pos _))

/-- A sample of the source's width comes as it is (R54). -/
theorem asSample_of_lt {p : Params} {x : Sample} (h : x.toNat < 2 ^ p.sampleW) : asSample p x = x := by
  rw [asSample, Nat.mod_eq_of_lt h, BitVec.ofNat_toNat, BitVec.setWidth_eq]

theorem pull_lt (s : State) : (pull s).1.toNat < 2 ^ s.cfg.sampleW := by
  unfold pull; split <;> exact asSample_lt _ _

/-- The integer a centred sample stands for (R100): it never overflows s17. -/
theorem centre_toInt {p : Params} {x : Sample} :
    (centre p x).toInt = (x.toNat : Int) - (p.dcMid.toNat : Int) := by
  have hx := x.isLt
  have hd := p.dcMid.isLt
  simp only [centre, BitVec.toInt_eq_toNat_cond, BitVec.toNat_sub, BitVec.toNat_setWidth]
  split <;> omega

theorem centre_bounds {p : Params} {x : Sample} (h : x.toNat < 2 ^ p.sampleW) :
    -(p.dcMid.toNat : Int) ≤ (centre p x).toInt ∧ (centre p x).toInt ≤ 2 ^ p.sampleW - 1 - (p.dcMid.toNat : Int) := by
  rw [centre_toInt]
  have : (x.toNat : Int) < 2 ^ p.sampleW := by exact_mod_cast h
  omega

/-- The inputs of a command change the source and the clock's queue, nothing else. -/
theorem supply_state (s : State) (c : Issued) :
    s.supply c = { s with samples := (s.supply c).samples, clock := (s.supply c).clock } := rfl

@[simp] theorem supply_noInputs (s : State) (w : Word) : s.supply ⟨w, noInputs⟩ = s := by
  simp [State.supply, noInputs]

/-- Taking a command pops the head of one port's queue, puts the inputs supplied to it before the others, and changes nothing
else but the choice it used (R9, R61). -/
theorem takeCommand_cases {s t : State} {p : Port} {w : Word} (h : takeCommand s = some (p, w, t)) :
    ∃ c : Issued, c.word = w ∧ s.waiting p = c :: t.waiting p ∧ (∀ q, q ≠ p → t.waiting q = s.waiting q) ∧
      t = ({ s with portP := t.portP, portC := t.portC, arb := t.arb, drawn := t.drawn } : State).supply c := by
  have key : ∀ (q : Port) (u : State), grant s = (q, u) → u = { s with arb := u.arb, drawn := u.drawn } := by
    intro q u hu
    unfold grant at hu
    split at hu <;> (simp only [Prod.mk.injEq] at hu; obtain ⟨_, rfl⟩ := hu; rfl)
  unfold takeCommand at h
  split at h
  · cases h
  · next a as hp hc =>
    simp only [Option.some.injEq, Prod.mk.injEq] at h
    obtain ⟨rfl, rfl, rfl⟩ := h
    exact ⟨a, rfl, by simp [State.waiting, State.supply, hp], fun q hq => by cases q <;> simp_all [State.waiting, State.supply], rfl⟩
  · next a as hp hc =>
    simp only [Option.some.injEq, Prod.mk.injEq] at h
    obtain ⟨rfl, rfl, rfl⟩ := h
    exact ⟨a, rfl, by simp [State.waiting, State.supply, hc], fun q hq => by cases q <;> simp_all [State.waiting, State.supply], rfl⟩
  · next a as b bs hp hc =>
    split at h
    · next u hu =>
      simp only [Option.some.injEq, Prod.mk.injEq] at h
      obtain ⟨rfl, rfl, rfl⟩ := h
      have hk := key _ _ hu
      refine ⟨a, rfl, by simp [State.waiting, State.supply, hp], fun q hq => ?_, by rw [hk]; rfl⟩
      cases q
      · exact absurd rfl hq
      · rw [hk]; rfl
    · next u hu =>
      simp only [Option.some.injEq, Prod.mk.injEq] at h
      obtain ⟨rfl, rfl, rfl⟩ := h
      have hk := key _ _ hu
      refine ⟨b, rfl, by simp [State.waiting, State.supply, hc], fun q hq => ?_, by rw [hk]; rfl⟩
      cases q
      · rw [hk]; rfl
      · exact absurd rfl hq

/-- What a taken command leaves of every field it cannot change. -/
theorem takeCommand_state {s t : State} {p : Port} {w : Word} (h : takeCommand s = some (p, w, t)) :
    t = { s with
      portP := t.portP, portC := t.portC, arb := t.arb, drawn := t.drawn, samples := t.samples, clock := t.clock } := by
  obtain ⟨c, _, _, _, e⟩ := takeCommand_cases h
  rw [e]; rfl

end Sys2Proof.Machine
end

