-- ==== Sys2Proof/Laws/Memory.lean ====
section
/-! SUPPORT. The laws of the ring's cells: a write is read back, leaves every other cell alone and keeps the canonical form. -/

namespace Sys2Proof.Machine

theorem read_write_same (m : Memory) (x : Nat) (v : Byte) : (m.write x v).read x = some v := by
  induction m with
  | nil => simp [Memory.write, Memory.read]
  | cons c m ih =>
    simp only [Memory.write]
    split
    · simp [Memory.read]
    · split
      · simp [Memory.read]
      · next h => simp [Memory.read, Ne.symm h, ih]

theorem read_write_other (m : Memory) {x y : Nat} (v : Byte) (h : y ≠ x) : (m.write x v).read y = m.read y := by
  induction m with
  | nil => simp [Memory.write, Memory.read, h.symm]
  | cons c m ih =>
    simp only [Memory.write]
    split
    · simp [Memory.read, h.symm]
    · split
      · next hx => subst hx; simp [Memory.read, h.symm]
      · simp only [Memory.read, ih]

/-- Every entry after a write is the written one or was there before. -/
theorem mem_write {m : Memory} {x : Nat} {v : Byte} {c : Host.Cell} (h : c ∈ m.write x v) : c = (x, v) ∨ c ∈ m := by
  induction m with
  | nil => simpa [Memory.write] using h
  | cons d m ih =>
    simp only [Memory.write] at h
    split at h
    · simpa using h
    · split at h
      · rcases List.mem_cons.1 h with h | h
        · exact .inl h
        · exact .inr (List.mem_cons_of_mem _ h)
      · rcases List.mem_cons.1 h with h | h
        · exact .inr (h ▸ List.mem_cons_self)
        · exact (ih h).imp_right (List.mem_cons_of_mem _)

/-- A write keeps the canonical form. -/
theorem write_wf {m : Memory} (x : Nat) (v : Byte) (h : Memory.wf m) : Memory.wf (m.write x v) := by
  induction m with
  | nil => simp [Memory.wf, Memory.write]
  | cons d m ih =>
    obtain ⟨hd, hm⟩ := List.pairwise_cons.1 h
    simp only [Memory.write]
    split
    · next hx =>
      refine List.pairwise_cons.2 ⟨fun c hc => ?_, h⟩
      rcases List.mem_cons.1 hc with rfl | hc
      · exact hx
      · exact Nat.lt_trans hx (hd c hc)
    · split
      · next hx => subst hx; exact List.pairwise_cons.2 ⟨hd, hm⟩
      · next hx hne =>
        refine List.pairwise_cons.2 ⟨fun c hc => ?_, ih hm⟩
        rcases mem_write hc with rfl | hc
        · simp only; omega
        · exact hd c hc

/-- A listed cell reads as some value. -/
theorem read_isSome_of_mem {m : Memory} {c : Host.Cell} (h : c ∈ m) : (m.read c.1).isSome := by
  induction m with
  | nil => cases h
  | cons d m ih =>
    simp only [Memory.read]
    split
    · rfl
    · next hne =>
      rcases List.mem_cons.1 h with rfl | h
      · exact absurd rfl hne
      · exact ih h

/-- Reset memory has the canonical form. -/
theorem reset_rbuf_wf (p : Params) : Memory.wf (State.resetWith p).rbuf := List.Pairwise.nil

end Sys2Proof.Machine
end

