-- ==== Sys2Proof/Laws/Ring.lean ====
section
/-! SUPPORT. The cursors' arithmetic and what PUSH and DRAIN can do, each said once (spec/43_ring.md R170, R171). -/

namespace Sys2Proof.Machine

theorem cursorPlus_lt {s : State} (hN : 0 < s.cfg.ringN) (c : Cursor) (k : Nat) : cursorPlus s c k < s.cfg.ringN :=
  Nat.mod_lt _ hN

/-- A cursor that does not wrap. -/
theorem cursorPlus_of_lt {s : State} {c : Cursor} {k : Nat} (h : c.toNat + k < s.cfg.ringN) :
    cursorPlus s c k = c.toNat + k :=
  Nat.mod_eq_of_lt h

/-- A cursor that wraps once. -/
theorem cursorPlus_of_ge {s : State} {c : Cursor} {k : Nat} (h : s.cfg.ringN ≤ c.toNat + k)
    (h2 : c.toNat + k < 2 * s.cfg.ringN) : cursorPlus s c k = c.toNat + k - s.cfg.ringN := by
  rw [cursorPlus, Nat.mod_eq_sub_mod h, Nat.mod_eq_of_lt (by omega)]

/-- The number of unread characters when the cursors are in range (R38). -/
theorem avail_eq {s : State} (hw : s.wptr.toNat < s.cfg.ringN) (hr : s.rptr.toNat < s.cfg.ringN) :
    avail s = if s.rptr.toNat ≤ s.wptr.toNat then s.wptr.toNat - s.rptr.toNat
      else s.wptr.toNat + s.cfg.ringN - s.rptr.toNat := by
  unfold avail
  split
  · rw [Int.emod_eq_of_lt (by omega) (by omega)]; omega
  · rw [← Int.add_emod_right, Int.emod_eq_of_lt (by omega) (by omega)]; omega

theorem avail_lt {s : State} (hw : s.wptr.toNat < s.cfg.ringN) (hr : s.rptr.toNat < s.cfg.ringN) :
    avail s < s.cfg.ringN := by
  rw [avail_eq hw hr]; split <;> omega

/-- The cell past the last unread one is the one at `WPTR`. -/
theorem cursorPlus_avail {s : State} (hw : s.wptr.toNat < s.cfg.ringN) (hr : s.rptr.toNat < s.cfg.ringN) :
    cursorPlus s s.rptr (avail s) = s.wptr.toNat := by
  rw [avail_eq hw hr]
  split
  · rw [cursorPlus_of_lt (by omega)]; omega
  · rw [cursorPlus_of_ge (by omega) (by omega)]; omega

/-- Cells at different distances from a cursor are different cells. -/
theorem cursorPlus_inj {s : State} {c : Cursor} {j k : Nat} (hc : c.toNat < s.cfg.ringN)
    (hj : j < s.cfg.ringN) (hk : k < s.cfg.ringN) (h : cursorPlus s c j = cursorPlus s c k) : j = k := by
  have e : ∀ i, i < s.cfg.ringN → cursorPlus s c i = if c.toNat + i < s.cfg.ringN then c.toNat + i
      else c.toNat + i - s.cfg.ringN := by
    intro i hi
    split
    · exact cursorPlus_of_lt ‹_›
    · exact cursorPlus_of_ge (by omega) (by omega)
  rw [e j hj, e k hk] at h
  split at h <;> split at h <;> omega

/-- A PUSH writes one cell and both cursors, nothing else (R170). -/
theorem push_state (c : Byte) (s : State) : push c s = { s with
    rbuf := s.rbuf.write (pushIndex s) c
    wptr := BitVec.ofNat 16 (cursorPlus s s.wptr 1)
    rptr := if cursorPlus s s.wptr 1 = s.rptr.toNat then BitVec.ofNat 16 (cursorPlus s s.rptr 1) else s.rptr } := by
  unfold push
  split <;> simp_all [ringWrite, pushIndex]

/-- A DRAIN writes `RPTR`, nothing else (R171). -/
theorem drain_state (m : Nat) (s : State) :
    (drain m s).2 = { s with rptr := BitVec.ofNat 16 (cursorPlus s s.rptr (min (avail s) m)) } := rfl

theorem drain_out (m : Nat) (s : State) : (drain m s).1 = ringFront s (min (avail s) m) := rfl

@[simp] theorem ringFront_length (s : State) (n : Nat) : (ringFront s n).length = n := by simp [ringFront]

theorem ringFront_take (s : State) (n k : Nat) : (ringFront s n).take k = ringFront s (min n k) := by
  rw [ringFront, ← List.map_take, List.take_range, Nat.min_comm]; rfl

theorem ringFront_succ (s : State) (n : Nat) :
    ringFront s (n + 1) = ringFront s n ++ [ringRead s (cursorPlus s s.rptr n)] := by
  simp [ringFront, List.range_succ]

theorem ringFront_drop (s : State) (n k : Nat) :
    (ringFront s n).drop k = (List.range (n - k)).map fun j => ringRead s (cursorPlus s s.rptr (k + j)) := by
  unfold ringFront
  rw [← List.map_drop]
  apply List.ext_getElem
  · simp
  · intro i h1 h2
    simp

/-- Steps of a cursor add up. -/
theorem cursorPlus_add {s : State} {c d : Cursor} {j : Nat} (h : d.toNat = cursorPlus s c j) (k : Nat) :
    cursorPlus s d k = cursorPlus s c (j + k) := by
  unfold cursorPlus at *
  rw [h, Nat.mod_add_mod, Nat.add_assoc]

/-- Every index of a ring of legal capacity fits a cursor. -/
theorem cursor_toNat {s : State} {n : Nat} (hN : s.cfg.ringN ≤ 65536) (h : n < s.cfg.ringN) :
    (BitVec.ofNat 16 n).toNat = n := by
  rw [BitVec.toNat_ofNat, Nat.mod_eq_of_lt (by omega)]

/-- The unread count is the one number of steps from the read cursor to the write cursor. -/
theorem avail_unique {s : State} {k : Nat} (hw : s.wptr.toNat < s.cfg.ringN) (hr : s.rptr.toNat < s.cfg.ringN)
    (hk : k < s.cfg.ringN) (h : cursorPlus s s.rptr k = s.wptr.toNat) : avail s = k :=
  cursorPlus_inj hr (avail_lt hw hr) hk ((cursorPlus_avail hw hr).trans h.symm)

end Sys2Proof.Machine
end

