-- ==== Sys2Proof/Laws/Framing.lean ====
section
/-! SUPPORT. Everything a framing transition, a STEP and the dispatched commands can do, each said once. -/

namespace Sys2Proof.Machine

/-- The transitions of spec/41_framing.md R122 to R132, and nothing else. -/
theorem frameStep_cases (tone : Tone) (now : Time) (s : State) :
    frameStep tone now s = s ∨
    (s.fstate = .idle ∧ tone = .space ∧ frameStep tone now s = { s with tStart := now, fstate := .startConfirm }) ∨
    (s.fstate = .startConfirm ∧ halfDone s now = true ∧ tone = .space ∧ frameStep tone now s = confirm s) ∨
    (s.fstate = .startConfirm ∧ halfDone s now = true ∧ tone = .mark ∧ frameStep tone now s = reject s) ∨
    (s.fstate = .dataBits ∧ reached s.tNext now = true ∧ frameStep tone now s = sampleBit tone s) ∨
    (s.fstate = .stopBits ∧ reached s.tNext now = true ∧ tone = .mark ∧ frameStep tone now s = stopValid s) ∨
    (s.fstate = .stopBits ∧ reached s.tNext now = true ∧ tone = .space ∧ frameStep tone now s = stopError s) := by
  unfold frameStep
  cases hf : s.fstate <;> cases tone <;> simp only [idleStep, startStep, dataStep, stopStep]
  all_goals first
    | (split <;> simp_all)
    | simp

/-- SAMPLE_BIT writes the accumulator, its count, the instant and FSTATE, nothing else (R128, R129). -/
theorem sampleBit_state (tone : Tone) (s : State) : sampleBit tone s = { s with
    acc := s.acc ||| (bitOf tone <<< s.cnt.toNat)
    cnt := s.cnt + 1
    tNext := s.tNext + s.bitp
    fstate := if s.cnt + 1 = 5 then .stopBits else s.fstate } := by
  unfold sampleBit
  split <;> simp_all

/-- Delivering a character changes the ring only. -/
theorem deliver_state (ch : Option Byte) (s : State) : deliver ch s = { s with
    rbuf := (deliver ch s).rbuf, wptr := (deliver ch s).wptr, rptr := (deliver ch s).rptr } := by
  cases ch with
  | none => rfl
  | some c => simp only [deliver, push_state]

/-- A valid stop bit changes SHIFT, the ring, the accumulator and FSTATE, nothing else (R131). -/
theorem stopValid_state (s : State) : stopValid s = { s with
    shift := (baudotDecode s.cfg s.acc s.shift).2
    rbuf := (stopValid s).rbuf, wptr := (stopValid s).wptr, rptr := (stopValid s).rptr
    acc := 0, cnt := 0, fstate := .idle } := by
  unfold stopValid
  simp only [clearAcc]
  rw [deliver_state]

/-- A STEP after INIT observes, fires at most one transition and acknowledges (R121). -/
theorem exec_step_eq {s w : State} {tone : Tone} {now : Time} (hi : s.initDone = true)
    (h : observe s = (tone, now, w)) : exec .step s = .next ((frameStep tone now w).respond .P .ack) := by
  simp [exec, execStep, hi, h]

/-- `exec_step_eq` read backwards: the only way a STEP answers a next state. -/
theorem exec_step_next {s t : State} (h : exec .step s = .next t) :
    ∃ tone now w, s.initDone = true ∧ observe s = (tone, now, w) ∧ t = (frameStep tone now w).respond .P .ack := by
  unfold exec execStep at h
  simp only at h
  split at h
  · next hi =>
    simp only [Host.Outcome.next.injEq] at h
    exact ⟨_, _, _, hi, rfl, h.symm⟩
  · cases h

theorem exec_init_next {s t : State} (h : exec .init s = .next t) :
    t = ({ (pullCentred s).2 with
      prev := (pullCentred s).1, fstate := .idle, acc := 0, cnt := 0, tStart := 0, tNext := 0,
      initDone := true }.respond .P .ack) := by
  simpa [exec, execInit, eq_comm] using h

theorem exec_drainText_next {p : Port} {m : Arg} {s t : State} (h : exec (.drainText p m) s = .next t) :
    (m = 0 ∧ t = s.respond p (.text 0 [])) ∨
    (m ≠ 0 ∧ t = (drain (drainLimit m) s).2.respond p
      (.text (BitVec.ofNat 24 (drain (drainLimit m) s).1.length) ((drain (drainLimit m) s).1 ++ [0]))) := by
  unfold exec execDrainText at h
  simp only at h
  split at h
  · next hm => exact .inl ⟨hm, by simpa [eq_comm] using h⟩
  · next hm => exact .inr ⟨hm, by simpa [eq_comm] using h⟩

theorem exec_setBaud_next {r : Arg} {s t : State} (h : exec (.setBaud r) s = .next t) :
    t = (if r = 0 then s else { s with baud := r, bitp := bitp r, halfp := halfPeriod (bitp r) }).respond .P .ack := by
  unfold exec execSetBaud positive at h
  split <;> simp_all

theorem exec_setWindow_next {n : Arg} {s t : State} (h : exec (.setWindow n) s = .next t) :
    t = (if n = 0 then s else { s with win := n }).respond .P .ack := by
  unfold exec execSetWindow positive at h
  split <;> simp_all

theorem exec_setThreshold_next {n : Arg} {s t : State} (h : exec (.setThreshold n) s = .next t) :
    t = (if n = 0 then s else { s with thr := n }).respond .P .ack := by
  unfold exec execSetThreshold positive at h
  split <;> simp_all

theorem exec_setDebug_next {e : Bool} {s t : State} (h : exec (.setDebug e) s = .next t) :
    t = { s with dbg := e }.respond .P .ack := by
  simpa [exec, execSetDebug, eq_comm] using h

/-- Every way `step` answers a next state: it waits, or runs the decoded command on the state without its word. -/
theorem step_next {s t : State} (h : step s = .next t) :
    t = s ∨ ∃ p w s' i, takeCommand s = some (p, w, s') ∧ decode p w = .ok i ∧ exec i s' = .next t := by
  unfold step at h
  split at h
  · exact .inl (by simpa [eq_comm] using h)
  · next p w s' ht =>
    split at h
    · next i hd => exact .inr ⟨p, w, s', i, ht, hd, h⟩
    · next e hd => cases e <;> simp [refuse] at h

/-- No command writes the parameters (notes/assumptions/2.md). -/
theorem exec_cfg {i : Instr} {s t : State} (h : exec i s = .next t) : t.cfg = s.cfg := by
  cases i with
  | init => rw [exec_init_next h, pullCentred_state]; simp
  | step =>
    obtain ⟨tone, now, w, _, ho, rfl⟩ := exec_step_next h
    have hw : w.cfg = s.cfg := by rw [observe_eq ho]
    rw [respond_cfg]
    rcases frameStep_cases tone now w with e | ⟨_, _, e⟩ | ⟨_, _, _, e⟩ | ⟨_, _, _, e⟩ | ⟨_, _, e⟩ | ⟨_, _, _, e⟩ | ⟨_, _, _, e⟩ <;>
      rw [e]
    · exact hw
    · exact hw
    · exact hw
    · exact hw
    · rw [sampleBit_state]; exact hw
    · rw [stopValid_state]; exact hw
    · exact hw
  | drainText p m => rcases exec_drainText_next h with ⟨_, rfl⟩ | ⟨_, rfl⟩ <;> simp [drain_state]
  | setBaud r => rw [exec_setBaud_next h]; split <;> simp
  | setWindow n => rw [exec_setWindow_next h]; split <;> simp
  | setThreshold n => rw [exec_setThreshold_next h]; split <;> simp
  | setDebug e => rw [exec_setDebug_next h]; simp

end Sys2Proof.Machine
end

