-- ==== Sys2Proof/Laws/PerInstr.lean ====
section
/-! SUPPORT. The families of LAWS.json: one lemma for each constructor of Instr. -/

namespace Sys2Proof.Laws.EncodedFields

/-- The word of an instruction holds its opcode and its operand, and its port accepts it (spec/30_encoding.md R70, R71, R73). -/
def Statement (i : Instr) : Prop :=
  opField (encode i) = i.mnemonic.opcode ∧ argField (encode i) = i.arg ∧ i.wellFormedOn i.port = true

theorem any (i : Instr) : Statement i :=
  ⟨opField_mkWord _ _, argField_mkWord _ _, by simp [Instr.wellFormedOn]⟩

theorem init : Statement .init := any _
theorem step : Statement .step := any _
theorem drainText (port : Port) (maxLen : Arg) : Statement (.drainText port maxLen) := any _
theorem setBaud (rate : Arg) : Statement (.setBaud rate) := any _
theorem setWindow (n : Arg) : Statement (.setWindow n) := any _
theorem setThreshold (n : Arg) : Statement (.setThreshold n) := any _
theorem setDebug (enable : Bool) : Statement (.setDebug enable) := any _

end Sys2Proof.Laws.EncodedFields
end

