-- ==== Sys2Proof/Tests/Slice0.lean ====
section
/-! SUPPORT. The model's own tests. Every expected value is a vector of spec/95_test_vectors.md (its id stands in the comment) or an
example of the rule named; the witnesses show that the hypotheses of the statements can be met. -/

namespace Sys2Proof.Tests

open Sys2Proof.Machine

/-! ## States to test on (the common configuration of spec/95_test_vectors.md) -/

/-- The parameters of the vectors: the defaults, a ring of `n` cells, window 4 and threshold 2. -/
def vectorParams (n : Nat) : Params := { Params.spec with ringN := n, win0 := 4, thr0 := 2 }

/-- After the setup of the programs: WIN 4, THR 2, BAUD 5000, PREV +100. -/
def ready : State :=
  { State.resetWith (vectorParams 8) with
    baud := 5000, bitp := 20000, halfp := 10000, prev := 100, initDone := true }

/-- The Mark window and the Space window. -/
def markWindow : List Sample := [2148, 2148, 2148, 2148]
def spaceWindow : List Sample := [1948, 2148, 1948, 2148]

/-- A state with its inputs for one STEP. -/
def withInputs (s : State) (now : Time) (window : List Sample) : State := { s with samples := window, clock := [now] }

/-- The next state, where the outcome is one. -/
def nextState : Host.Outcome State Fault Refusal → Option State
  | .next s => some s
  | .fault _ => none
  | .refused _ => none

/-- What a STEP with these inputs leaves. -/
def afterStep (s : State) (now : Time) (window : List Sample) : Option State :=
  nextState (exec .step (withInputs s now window))

def inStart : State := { ready with fstate := .startConfirm, tStart := 2000 }
def inData : State := { ready with fstate := .dataBits, tStart := 2000, tNext := 32000 }
def inStop : State := { ready with fstate := .stopBits, tStart := 2000, tNext := 132000, acc := 21, cnt := 5 }

/-- A ring of four cells, 'A', 'B', 'C' unread. -/
def fullRing : State :=
  { State.resetWith (vectorParams 4) with rbuf := [(0, 0x41), (1, 0x42), (2, 0x43)], wptr := 3, rptr := 0 }

/-! ## Decoding: words written out from the encodings of spec/30_encoding.md R73 (vectors E1 to E16) -/

theorem test_decode_init : decode .P 0b00000001000000000000000000000000 = .ok .init := by decide
theorem test_decode_step_ignores_arg : decode .P 0b00000010101010111100110111101111 = .ok .step := by decide
theorem test_decode_drainText : decode .C 0b00000011000000000000000000010000 = .ok (.drainText .C 16) := by decide
theorem test_decode_setBaud : decode .P 0b00010000000000000001000111000001 = .ok (.setBaud 4545) := by decide
theorem test_decode_setWindow : decode .P 0b00010001000000000000000000000100 = .ok (.setWindow 4) := by decide
theorem test_decode_setThreshold : decode .P 0b00010010000000000000000000000010 = .ok (.setThreshold 2) := by decide
theorem test_decode_setDebug : decode .P 0b00010011111111111111111111111111 = .ok (.setDebug true) := by decide
theorem test_decode_setDebug_bit0 : decode .P 0x13000002 = .ok (.setDebug false) := by decide
theorem test_decode_reserved : decode .P 0x00000000 = .error .reservedOpcode ∧ decode .P 0x04000000 = .error .reservedOpcode ∧
    decode .P 0x14000000 = .error .reservedOpcode ∧ decode .C 0xFF123456 = .error .reservedOpcode := by decide
theorem test_decode_wrongPort : decode .C 0x02000000 = .error .wrongPort ∧ decode .C 0x10001388 = .error .wrongPort := by decide
theorem test_decodeTableWord : decodeTableWord 32 0x11000004 = some (.setWindow 4) ∧ decodeTableWord 32 0x14000000 = none ∧
    decodeTableWord 32 0x03000000 = some (.drainText .P 0) := by decide
theorem test_encode : encode .step = 0x02000000 ∧ encode (.setBaud 4545) = 0x100011C1 ∧
    encode (.drainText .C 8) = 0x03000008 := by decide
/-- R57: little-endian. -/
theorem test_wordBytes : wordBytes 0x100011C1 = [0xC1, 0x11, 0x00, 0x10] := by decide

/-! ## Well-formedness: an ill-formed term for each check -/

theorem smoke_port : Instr.wellFormedOn .C .init = false ∧ Instr.wellFormedOn .C .step = false ∧
    Instr.wellFormedOn .C (.setBaud 1) = false ∧ Instr.wellFormedOn .C (.setWindow 1) = false ∧
    Instr.wellFormedOn .C (.setThreshold 1) = false ∧ Instr.wellFormedOn .C (.setDebug true) = false ∧
    Instr.wellFormedOn .P (.drainText .C 1) = false ∧ Instr.wellFormedOn .C (.drainText .C 1) = true := by decide
theorem smoke_operand_missing : AsmStmt.wellFormed (.command .SET_BAUD none) = false := by decide
theorem smoke_operand_present : AsmStmt.wellFormed (.command .STEP (some 0)) = false := by decide
theorem smoke_operand_range : AsmStmt.wellFormed (.command .SET_BAUD (some (2 ^ 24))) = false ∧
    AsmStmt.wellFormed (.command .SET_BAUD (some (2 ^ 24 - 1))) = true := by decide
theorem smoke_rate_digits : AsmStmt.wellFormed (.setBaudRate ⟨45, [4, 5, 0]⟩) = false := by decide
theorem smoke_rate_range : AsmStmt.wellFormed (.setBaudRate ⟨0, []⟩) = false ∧
    AsmStmt.wellFormed (.setBaudRate ⟨167772, [1, 6]⟩) = false ∧ AsmStmt.wellFormed (.setBaudRate ⟨167772, [1, 5]⟩) = true := by decide
theorem smoke_drain_range : AsmStmt.wellFormed (.drain (2 ^ 24 - 1)) = false ∧ AsmStmt.wellFormed (.drain (2 ^ 24 - 2)) = true := by decide
theorem smoke_note : AsmLine.wellFormed ⟨.P, .command .INIT none, some ⟨some 1, none⟩⟩ = false := by decide

theorem vectorParams_legal : (vectorParams 8).Legal where
  sampleW_ge := by decide
  sampleW_le := by decide
  dcMid_lt := by decide
  ringN_ge := by decide
  ringN_le := by decide
  win0_pos := by decide
  thr0_pos := by decide
  thr0_le := by decide
  baud0_pos := by decide
  figs_ne := by decide
  figs_pos := by decide
  ltrs_pos := by decide
  ltrTable := by decide
  figTable := by decide

/-- R5: each constraint refuses a record that breaks it. -/
theorem smoke_parameters :
    ¬ { vectorParams 8 with sampleW := 1 }.Legal ∧ ¬ { vectorParams 8 with sampleW := 17 }.Legal ∧
    ¬ { vectorParams 8 with dcMid := 4096 }.Legal ∧ ¬ { vectorParams 8 with ringN := 1 }.Legal ∧
    ¬ { vectorParams 8 with ringN := 65537 }.Legal ∧ ¬ { vectorParams 8 with win0 := 0 }.Legal ∧
    ¬ { vectorParams 8 with thr0 := 0 }.Legal ∧ ¬ { vectorParams 8 with thr0 := 5 }.Legal ∧
    ¬ { vectorParams 8 with baud0 := 0 }.Legal ∧ ¬ { vectorParams 8 with figsCode := 31 }.Legal ∧
    ¬ { vectorParams 8 with figsCode := 0 }.Legal ∧ ¬ { vectorParams 8 with ltrsCode := 0 }.Legal ∧
    ¬ { vectorParams 8 with ltrTable := (defaultLtrTable.set 27 (some 0x41)) }.Legal ∧
    ¬ { vectorParams 8 with figTable := (defaultFigTable.set 1 (some 0)) }.Legal :=
  ⟨fun h => absurd h.sampleW_ge (by decide), fun h => absurd h.sampleW_le (by decide), fun h => absurd h.dcMid_lt (by decide),
   fun h => absurd h.ringN_ge (by decide), fun h => absurd h.ringN_le (by decide), fun h => absurd h.win0_pos (by decide),
   fun h => absurd h.thr0_pos (by decide), fun h => absurd h.thr0_le (by decide), fun h => absurd h.baud0_pos (by decide),
   fun h => absurd h.figs_ne (by decide), fun h => absurd h.figs_pos (by decide), fun h => absurd h.ltrs_pos (by decide),
   fun h => absurd h.ltrTable.2.1 (by decide), fun h => absurd h.figTable.2.2.2 (by decide)⟩

/-! ## Assembler (spec/30_encoding.md R79, R80) -/

/-- `P: SET_BAUD_RATE 45.45` is 0x100011C1. -/
theorem test_line_rate :
    (readLine ['P', ':', ' ', 'S', 'E', 'T', '_', 'B', 'A', 'U', 'D', '_', 'R', 'A', 'T', 'E', ' ', '4', '5', '.', '4', '5']).bind
      (fun l => l.bind AsmLine.assemble) = some (.P, 0x100011C1) := by decide
/-- `C: DRAIN 7 ; take` is `DRAIN_TEXT 8`; `P: STEP @now=1000 win=MW` is a STEP. -/
theorem test_line_drain :
    (readLine ['C', ':', ' ', 'D', 'R', 'A', 'I', 'N', ' ', '7', ' ', ';', ' ', 't']).bind
      (fun l => l.bind AsmLine.assemble) = some (.C, 0x03000008) := by decide
theorem test_line_step :
    readLine ['P', ':', ' ', 'S', 'T', 'E', 'P', ' ', '@', 'n', 'o', 'w', '=', '1', '0', ' ', 'w', 'i', 'n', '=', 'M', 'W'] =
      some (some ⟨.P, .command .STEP none, some ⟨some 10, some ['M', 'W']⟩⟩) := by decide

/-! ## Commands -/

/-- K12: INIT mid-frame. -/
theorem test_init_abandons_frame :
    (nextState (exec .init { inData with cnt := 3, acc := 5, samples := [2148] })).map
      (fun t => (t.prev.toInt, t.fstate, t.acc, t.cnt, t.tStart, t.tNext)) = some (100, .idle, 0, 0, 0, 0) := by decide
/-- K13. -/
theorem test_init_negative : (nextState (exec .init { ready with samples := [1000] })).map (fun t => t.prev.toInt) = some (-1048) := by
  decide
/-- K3, K5: rounding, and the tie goes up. -/
theorem test_setBaud_rounds :
    (nextState (exec (.setBaud 11000) ready)).map (fun t => (t.bitp, t.halfp)) = some (9091, 4545) ∧
    (nextState (exec (.setBaud 512) ready)).map (fun t => (t.bitp, t.halfp)) = some (195313, 97656) := by decide
/-- K6, K7, K8: the ends of the range, and 0 ignored. -/
theorem test_setBaud_range :
    (nextState (exec (.setBaud 1) ready)).map (fun t => t.bitp) = some 100000000 ∧
    (nextState (exec (.setBaud 16777215) ready)).map (fun t => (t.bitp, t.halfp)) = some (6, 3) ∧
    (nextState (exec (.setBaud 0) ready)).map (fun t => (t.baud, t.bitp)) = some (5000, 20000) := by decide
/-- K9, K10 and the examples of R193, R194. -/
theorem test_setWindow : (nextState (exec (.setWindow 0) ready)).map (fun t => t.win) = some 4 ∧
    (nextState (exec (.setWindow 9) ready)).map (fun t => (t.win, t.thr)) = some (9, 2) := by decide
theorem test_setThreshold : (nextState (exec (.setThreshold 0) ready)).map (fun t => t.thr) = some 2 ∧
    (nextState (exec (.setThreshold 9) ready)).map (fun t => (t.win, t.thr)) = some (4, 9) := by decide
theorem test_setDebug : (nextState (exec (.setDebug true) ready)).map (fun t => (t.dbg, t.respP)) = some (true, [.ack]) := by decide
/-- W12, W13: `maxLen - 1` characters and the terminator; the rest stays. -/
theorem test_drainText_leaves_rest :
    (nextState (exec (.drainText .C 2) { fullRing with rptr := 1 })).map (fun t => (t.respC, t.rptr)) =
      some ([.text 1 [0x42, 0x00]], 2) := by decide
/-- W9 to W11: the empty ring, and `maxLen` 0 and 1. -/
theorem test_drainText_short :
    (nextState (exec (.drainText .C 16) { fullRing with rptr := 3 })).map (fun t => t.respC) = some [.text 0 [0x00]] ∧
    (nextState (exec (.drainText .C 0) fullRing)).map (fun t => (t.respC, t.rptr)) = some ([.text 0 []], 0) ∧
    (nextState (exec (.drainText .C 1) fullRing)).map (fun t => (t.respC, t.rptr)) = some ([.text 0 [0x00]], 0) := by decide

/-! ## The internal operations -/

/-- D1, D2, D3: no transition, four, and exactly the threshold. -/
theorem test_discriminate_tone :
    (discriminate { ready with samples := markWindow }).1 = .mark ∧ (discriminate { ready with samples := spaceWindow }).1 = .space ∧
    (discriminate { ready with samples := [1948, 1948, 2148, 2148] }).1 = .space := by decide
/-- D4, D5, D6: `PREV` after, and zero as a non-negative sample. -/
theorem test_discriminate_prev :
    (discriminate { ready with samples := [1948, 1948, 1948, 1948] }).2.prev.toInt = -100 ∧
    (windowLoop 4 0 { ready with samples := [2047, 2048, 2048, 2048] }).1 = 2 ∧
    (windowLoop 4 0 { ready with prev := 0, samples := [2048, 2049, 2048, 2048] }).1 = 0 := by decide
/-- F2 and F0. -/
theorem test_step_idle : (afterStep ready 2000 spaceWindow).map (fun t => (t.fstate, t.tStart)) = some (.startConfirm, 2000) ∧
    nextState (exec .step { ready with initDone := false }) = none := by decide
/-- F3, F4, F5. -/
theorem test_step_start :
    (afterStep inStart 12000 spaceWindow).map (fun t => (t.fstate, t.tNext)) = some (.dataBits, 32000) ∧
    (afterStep inStart 11999 markWindow).map (fun t => t.fstate) = some .startConfirm ∧
    (afterStep inStart 12000 markWindow).map (fun t => t.fstate) = some .idle := by decide
/-- F6, F7, F9. -/
theorem test_step_data :
    (afterStep inData 31999 markWindow).map (fun t => (t.acc, t.tNext)) = some (0, 32000) ∧
    (afterStep inData 32000 markWindow).map (fun t => (t.acc, t.cnt, t.tNext)) = some (1, 1, 52000) ∧
    (afterStep { inData with acc := 5, cnt := 4, tNext := 112000 } 112000 markWindow).map
      (fun t => (t.fstate, t.acc, t.cnt, t.tNext)) = some (.stopBits, 21, 5, 132000) := by decide
/-- F11: 'Y' is pushed. -/
theorem test_step_stop :
    (afterStep inStop 132000 markWindow).map (fun t => (t.fstate, t.rbuf.read 0, t.wptr, t.cnt)) =
      some (.idle, some 0x59, 1, 0) := by decide
/-- F12, F14: a framing error discards a shift code, a valid stop bit takes it. -/
theorem test_step_stop_shift :
    (afterStep { inStop with acc := 27 } 132000 spaceWindow).map (fun t => (t.fstate, t.shift, t.wptr)) = some (.idle, .letters, 0) ∧
    (afterStep { inStop with acc := 27 } 132000 markWindow).map (fun t => (t.fstate, t.shift, t.wptr)) = some (.idle, .figures, 0) := by
  decide
/-- F19: the wrapping comparison. -/
theorem test_reached : reached 25904 25904 = true ∧ reached 25904 25903 = false ∧ reached 25904 4294967295 = false := by decide
/-- B4, B10, B15, B18. -/
theorem test_codec : baudotDecode (vectorParams 8) 4 .figures = (some 0x20, .figures) ∧
    baudotDecode (vectorParams 8) 1 .figures = (some 0x33, .figures) ∧
    baudotDecode (vectorParams 8) 9 .figures = (some 0x05, .figures) ∧
    baudotDecode (vectorParams 8) 30 .letters = (some 0x56, .letters) := by decide
/-- W4, W5: a full ring drops its oldest. -/
theorem test_push_full : ((push 0x44 fullRing).wptr, (push 0x44 fullRing).rptr, (drain 2 (push 0x44 fullRing)).1) =
    (0, 1, [0x42, 0x43]) := by decide
/-- A write keeps the indices rising, at the end and in between. -/
theorem test_memory_canonical : Memory.wf (push 0x44 fullRing).rbuf ∧ Memory.wf (Memory.write [(0, 1), (2, 3)] 1 9) := by decide

/-- R10: the codes of the enumerations. -/
theorem test_codes : Tone.mark.code = 1 ∧ Tone.space.code = 0 ∧ ShiftState.letters.code = 0 ∧ ShiftState.figures.code = 1 ∧
    [FramingState.idle, .startConfirm, .dataBits, .stopBits].map FramingState.code = [0, 1, 2, 3] := by decide

/-! ## Steps -/

/-- The order of R214: on port C a STEP word is refused, and not faulted, before INIT. -/
theorem test_refusal_first : step ((State.resetWith (vectorParams 8)).issue .C 0x02000000) = .refused .wrongPort := rfl
/-- The choice of R61 where both ports wait. -/
theorem test_grant :
    ((takeCommand (((ready.issue .P 0x13000001).issue .C 0x03000010).supplyGrant .C)).map fun x => (x.1, x.2.1)) =
      some (.C, 0x03000010) := by decide
/-- R79: the `now` and the samples of an annotation reach that STEP, past an INIT that waits ahead of it. -/
theorem test_annotation_reaches_its_step :
    (((({ ready with samples := [1000], clock := [5] } : State).issue .P 0x01000000).issueLine [(['S', 'W'], spaceWindow)]
      ⟨.P, .command .STEP none, some ⟨some 2000, some ['S', 'W']⟩⟩).bind fun s =>
      (nextState (step s)).bind fun s1 => (nextState (step s1)).map fun t => (s1.prev.toInt, t.fstate, t.tStart, t.samples, t.clock)) =
      some (-1048, .startConfirm, 2000, [], [5]) := by decide
/-- Every command of the map runs as the first one after reset, on open parameters; STEP is the model fault of R212. -/
theorem test_first_after_reset :
    (nextState (step (State.reset.withFetchWord 32 0x01000000))).isSome = true ∧
    (nextState (step (State.reset.withFetchWord 32 0x03000010))).map (fun t => t.respP) = some [.text 0 [0x00]] ∧
    (nextState (step (State.reset.withFetchWord 32 0x10001388))).map (fun t => t.bitp) = some 20000 ∧
    (nextState (step (State.reset.withFetchWord 32 0x11000004))).map (fun t => t.win) = some 4 ∧
    (nextState (step (State.reset.withFetchWord 32 0x12000002))).map (fun t => t.thr) = some 2 ∧
    (nextState (step (State.reset.withFetchWord 32 0x13000001))).map (fun t => t.dbg) = some true := by decide
theorem test_step_first_after_reset : step (State.reset.withFetchWord 32 0x02000000) = .fault .notInitialised := rfl

end Sys2Proof.Tests
end

