-- ==== Sys2Proof/Tests/Witnesses.lean ====
section
/-! SUPPORT. For each statement with hypotheses, states and operands that meet them, clause by clause and at the ends of the
ranges; the names are the statements' own. -/

namespace Sys2Proof.Tests

open Sys2Proof.Machine

/-- A reset machine with one word waiting. -/
def waitingOn (port : Port) (w : Word) : State := (State.resetWith (vectorParams 8)).issue port w

/-! ## Encoding -/

theorem witness_DecodeInvertsEncode : Instr.wellFormedOn .C (.drainText .C 0xFFFFFF) = true ∧
    Instr.wellFormedOn .P (.setBaud 0) = true ∧ Instr.wellFormedOn .P .step = true := by decide
theorem witness_EncodeInvertsDecode : decode .P 0x02ABCDEF = .ok .step ∧ decode .C 0x03FFFFFF = .ok (.drainText .C 0xFFFFFF) := by
  decide
theorem witness_OpcodeMapSelectsTheCommand :
    (∃ r ∈ opRows, r.selects 0x02ABCDEF = true ∧ Port.P ∈ r.ports ∧ Port.C ∉ r.ports) ∧
    (∀ r ∈ opRows, r.selects 0x04000000 = false) := by decide
theorem witness_ReservedOpcodeIsRefused :
    (∃ s', takeCommand (waitingOn .P 0x00000000) = some (.P, 0x00000000, s')) ∧
    (∃ s', takeCommand (waitingOn .P 0x04000000) = some (.P, 0x04000000, s')) ∧
    (∃ s', takeCommand (waitingOn .C 0x0F000000) = some (.C, 0x0F000000, s')) ∧
    (∃ s', takeCommand (waitingOn .C 0x14000000) = some (.C, 0x14000000, s')) ∧
    (opField 0x00000000).toNat = 0 ∧ (opField 0x04000000).toNat = 4 ∧ (opField 0x0F000000).toNat = 0x0F ∧
    (opField 0x14000000).toNat = 0x14 :=
  ⟨⟨_, rfl⟩, ⟨_, rfl⟩, ⟨_, rfl⟩, ⟨_, rfl⟩, by decide⟩
theorem witness_ConsumerPortTakesOnlyDrainText :
    ∃ s', takeCommand (waitingOn .C 0x02000000) = some (.C, 0x02000000, s') ∧
      opField 0x02000000 ∈ [0x01, 0x02, 0x10, 0x11, 0x12, 0x13] := ⟨_, rfl, by decide⟩
theorem witness_IgnoredBitsHaveNoEffect :
    opField 0x01000000 = opField 0x01FFFFFF ∧ opField 0x01000000 = 0x01 ∧
    opField 0x13000001 = opField 0x13FFFFFF ∧ (argField 0x13000001).getLsbD 0 = (argField 0x13FFFFFF).getLsbD 0 ∧
    AsmLine.assemble ⟨.P, .command .SET_DEBUG (some 3), none⟩ = some (.P, 0x13000001) ∧
    AsmLine.assemble ⟨.P, .command .INIT none, none⟩ = some (.P, 0x01000000) := by decide
/-- Two states that differ only in the ignored bits of the word taken. -/
theorem witness_IgnoredBitsHaveNoEffect_step :
    (∃ t, takeCommand (waitingOn .P 0x01000000) = some (.P, 0x01000000, t) ∧
      takeCommand (waitingOn .P 0x01FFFFFF) = some (.P, 0x01FFFFFF, t)) ∧
    (∃ t, takeCommand (waitingOn .P 0x13000001) = some (.P, 0x13000001, t) ∧
      takeCommand (waitingOn .P 0x13FFFFFF) = some (.P, 0x13FFFFFF, t)) := ⟨⟨_, rfl, rfl⟩, ⟨_, rfl, rfl⟩⟩
theorem witness_AssembledLineIsItsCommand :
    AsmLine.wellFormed ⟨.P, .command .STEP none, some ⟨some 1000, none⟩⟩ = true ∧
    AsmLine.wellFormed ⟨.C, .drain 7, none⟩ = true ∧ AsmLine.wellFormed ⟨.P, .command .INIT (some 0), none⟩ = false := by decide
theorem witness_AssembledLineIsItsCommand_issued :
    AsmLine.assemble ⟨.P, .command .STEP none, some ⟨some 10, some ['M', 'W']⟩⟩ = some (.P, 0x02000000) ∧
    AsmLine.assemble ⟨.P, .command .STEP none, none⟩ = some (.P, 0x02000000) ∧
    windowNamed [(['M', 'W'], markWindow)] ['M', 'W'] = markWindow := by decide
theorem witness_PseudoCommandsExpand :
    Decimal.hundredths ⟨0, [0, 1]⟩ = 1 ∧ Decimal.hundredths ⟨167772, [1, 5]⟩ = 2 ^ 24 - 1 ∧ (2 ^ 24 - 2) + 1 ≤ 2 ^ 24 - 1 ∧
    (nextState (exec (.drainText .C (BitVec.ofNat 24 (2 ^ 24 - 2 + 1))) fullRing)).isSome = true := by decide

/-! ## Steps, ports and responses -/

theorem witness_StepRunsTheDecodedCommand :
    (∃ s', takeCommand (waitingOn .P 0x11000004) = some (.P, 0x11000004, s') ∧ decode .P 0x11000004 = .ok (.setWindow 4)) ∧
    ready.portP = [] ∧ ready.portC = [] := ⟨⟨_, rfl, by decide⟩, rfl, rfl⟩
theorem witness_PlacedWordRunsNext : Instr.port .step = .P ∧ Instr.port (.drainText .P 16) = .P := by decide
theorem witness_CommandsKeepIssueOrder :
    let s := ((ready.issue .P 0x13000001).issue .C 0x03000010).supplyGrant .C
    s.portP ≠ [] ∧ s.portC ≠ [] ∧ s.arb = [.C] ∧ (takeCommand s).isSome = true := by decide
theorem witness_OneResponseOnTheIssuingPort :
    (nextState (exec .init ready)).isSome = true ∧ (nextState (exec (.drainText .C 0) ready)).isSome = true ∧
    (nextState (exec (.drainText .P 1) ready)).isSome = true := by decide

/-! ## INIT and the setters -/

theorem witness_InitTakesReferenceAndClears : ∃ x s', pull ready = (x, s') := ⟨_, _, rfl⟩
theorem witness_InitFrame : ∃ t, exec .init inData = .next t := ⟨_, rfl⟩
theorem witness_BitPeriodRoundsToNearest : (1 : Arg) ≠ 0 ∧ (0xFFFFFF : Arg) ≠ 0 := by decide
theorem witness_SetBaudWritesRateAndPeriods : (0xFFFFFF : Arg) ≠ 0 ∧ (0 : Arg) = 0 := by decide
theorem witness_SetWindowWritesWindow : (1 : Arg) ≠ 0 ∧ (0 : Arg) = 0 ∧
    (nextState (exec (.setWindow 1) ready)).map (fun t => decide (t.win.toNat < t.thr.toNat)) = some true := by decide
theorem witness_SetThresholdWritesThreshold : (5 : Arg) ≠ 0 ∧ (0 : Arg) = 0 ∧
    (nextState (exec (.setThreshold 5) ready)).isSome = true ∧ ready.win.toNat < (5 : Arg).toNat := by decide
theorem witness_SetterFrame :
    (∃ t, exec (.setBaud 1) inData = .next t) ∧ (∃ t, exec (.setWindow 0) inData = .next t) ∧
    (∃ t, exec (.setThreshold 9) inData = .next t) ∧ (∃ t, exec (.setDebug true) inData = .next t) :=
  ⟨⟨_, rfl⟩, ⟨_, rfl⟩, ⟨_, rfl⟩, ⟨_, rfl⟩⟩

/-! ## The discriminator and time -/

theorem witness_CentringIsExact :
    (vectorParams 8).Legal ∧ (4095 : Sample).toNat < 2 ^ (vectorParams 8).sampleW ∧
    (0 : Sample).toNat < 2 ^ (vectorParams 8).sampleW := ⟨vectorParams_legal, by decide, by decide⟩
theorem witness_ThresholdCountIsSpace : 1 < (2 : Arg).toNat ∧ (2 : Arg).toNat ≤ 2 ∧ 1 ≤ (1 : Arg).toNat := by decide
/-- Four samples, the largest and the smallest value of the width among them. -/
theorem witness_SamplesAreConsumedInOrder :
    let s : State := { ready with samples := [1948, 4095, 0, 2148] }
    4 ≤ s.samples.length ∧ s.cfg.sampleW = 12 ∧ ∀ x ∈ s.samples, x.toNat < 2 ^ 12 :=
  ⟨by decide, rfl, by intro x hx; simp only [List.mem_cons, List.not_mem_nil, or_false] at hx; rcases hx with rfl | rfl | rfl | rfl <;> decide⟩
theorem witness_DiscriminateClassifiesTheWindow : ∃ xs w, pullMany ready.win.toNat ready = (xs, w) := ⟨_, _, rfl⟩
theorem witness_ThresholdAboveWindowIsMark :
    ({ ready with thr := 5 } : State).win.toNat < ({ ready with thr := 5 } : State).thr.toNat ∧
    (1 ≤ (windowLoop 4 0 { ready with thr := 1, samples := spaceWindow }).1) ∧
    ready.thr ≠ 0 ∧ (nextState (exec (.setThreshold 0) ready)).isSome = true := by decide
theorem witness_TimelyClockIsReadExactly :
    Timely 0 (2 ^ 31 - 1) ∧ Timely (2 ^ 31 - 1) 0 ∧ Timely (2 ^ 32 - 1) (2 ^ 32) ∧ 2 ^ 32 - 1 ≤ 2 ^ 32 := by
  unfold Timely; decide

/-! ## STEP -/

theorem witness_StepCompletesExactlyAfterInit : ready.initDone = true ∧ (State.resetWith (vectorParams 8)).initDone = false := by decide
theorem witness_StepObservesWindowThenClock :
    (∃ tone now w, observe (withInputs ready 7 markWindow) = (tone, now, w)) ∧ (withInputs ready 7 markWindow).clock = [7] ∧
    ready.clock = [] := ⟨⟨_, _, _, rfl⟩, rfl, rfl⟩
/-- A STEP with its own window and time, taken while the shared queues hold others. -/
theorem witness_StepObservesWindowThenClock_supplied :
    let c : Issued := ⟨0x02000000, ⟨some 9, markWindow⟩⟩
    let s := (withInputs ready 7 spaceWindow).issueWith .P c.word c.inputs
    (∃ s' tone now w, takeCommand s = some (.P, c.word, s') ∧ s.waiting .P = c :: s'.waiting .P ∧
      observe s' = (tone, now, w)) ∧
    opField c.word = 0x02 ∧ c.inputs.now = some 9 ∧ s.win.toNat ≤ c.inputs.window.length :=
  ⟨⟨_, _, _, _, rfl, rfl, rfl⟩, by decide, rfl, by decide⟩
/-- A state, its observation and the observed tone and time, for the statements of the four framing states. -/
theorem witness_IdleStepWaitsForSpace :
    (∃ w, observe (withInputs ready 2000 spaceWindow) = (.space, 2000, w)) ∧
    (∃ w, observe (withInputs ready 2000 markWindow) = (.mark, 2000, w)) ∧ ready.initDone = true ∧ ready.fstate = .idle :=
  ⟨⟨_, rfl⟩, ⟨_, rfl⟩, rfl, rfl⟩
theorem witness_StartConfirmStepDecidesAtHalfBit :
    (∃ w, observe (withInputs inStart 11999 markWindow) = (.mark, 11999, w)) ∧
    (∃ w, observe (withInputs inStart 12000 spaceWindow) = (.space, 12000, w)) ∧
    (∃ w, observe (withInputs inStart 12000 markWindow) = (.mark, 12000, w)) ∧
    halfDone inStart 11999 = false ∧ halfDone inStart 12000 = true ∧ inStart.initDone = true ∧ inStart.fstate = .startConfirm :=
  ⟨⟨_, rfl⟩, ⟨_, rfl⟩, ⟨_, rfl⟩, by decide⟩
theorem witness_DataBitsStepSamplesOneBit :
    (∃ w, observe (withInputs inData 32000 markWindow) = (.mark, 32000, w)) ∧
    reached inData.tNext 31999 = false ∧ reached inData.tNext 32000 = true ∧ inData.cnt.toNat ≤ 4 ∧
    ({ inData with cnt := 4 } : State).cnt.toNat ≤ 4 ∧ inData.initDone = true ∧ inData.fstate = .dataBits :=
  ⟨⟨_, rfl⟩, by decide⟩
theorem witness_StopBitsStepDeliversOrDiscards :
    (∃ w, observe (withInputs inStop 132000 markWindow) = (.mark, 132000, w)) ∧
    (∃ w, observe (withInputs inStop 132000 spaceWindow) = (.space, 132000, w)) ∧
    reached inStop.tNext 131999 = false ∧ reached inStop.tNext 132000 = true ∧
    baudotDecode inStop.cfg inStop.acc inStop.shift = (some 0x59, .letters) ∧
    baudotDecode inStop.cfg 27 inStop.shift = (none, .figures) ∧ inStop.initDone = true ∧ inStop.fstate = .stopBits :=
  ⟨⟨_, rfl⟩, ⟨_, rfl⟩, by decide⟩
theorem witness_StepFrame :
    (∃ tone now w t, observe (withInputs inStop 132000 markWindow) = (tone, now, w) ∧
      exec .step (withInputs inStop 132000 markWindow) = .next t) ∧
    (∃ tone now w t, observe (withInputs inData 32000 markWindow) = (tone, now, w) ∧
      exec .step (withInputs inData 32000 markWindow) = .next t ∧ ¬ (inData.fstate = .stopBits)) ∧
    (baudotDecode inStop.cfg 0 inStop.shift).1 = none :=
  ⟨⟨_, _, _, _, rfl, rfl⟩, ⟨_, _, _, _, rfl, rfl, by decide⟩, by decide⟩

/-! ## Codec and ring -/

theorem witness_CodecFollowsTheTables :
    (27 : Code) = (vectorParams 8).figsCode ∧ (31 : Code) = (vectorParams 8).ltrsCode ∧ (31 : Code) ≠ (vectorParams 8).figsCode ∧
    (30 : Code) ≠ (vectorParams 8).figsCode ∧ (30 : Code) ≠ (vectorParams 8).ltrsCode ∧ (vectorParams 8).Legal :=
  ⟨by decide, by decide, by decide, by decide, by decide, vectorParams_legal⟩
theorem witness_OnlyShiftCodesChangeShift :
    (afterStep { inStop with acc := 27 } 132000 markWindow).map (fun t => t.shift) = some .figures ∧ inStop.shift = .letters ∧
    (afterStep { inStop with acc := 31, shift := .figures } 132000 markWindow).map (fun t => t.shift) = some .letters := by decide
/-- The smallest and the largest ring, the cursors at the last cell. -/
theorem witness_PushAppendsAndDropsOldest :
    (let s := State.resetWith (vectorParams 2); 2 ≤ s.cfg.ringN ∧ s.cfg.ringN ≤ 65536 ∧ s.wptr.toNat < s.cfg.ringN ∧ s.rptr.toNat < s.cfg.ringN) ∧
    (let s : State := { State.resetWith (vectorParams 65536) with wptr := 65535, rptr := 0 };
      2 ≤ s.cfg.ringN ∧ s.cfg.ringN ≤ 65536 ∧ s.wptr.toNat < s.cfg.ringN ∧ s.rptr.toNat < s.cfg.ringN ∧ avail s = s.cfg.ringN - 1) := by
  decide
theorem witness_DrainTakesFromTheFront :
    2 ≤ fullRing.cfg.ringN ∧ fullRing.cfg.ringN ≤ 65536 ∧ fullRing.wptr.toNat < fullRing.cfg.ringN ∧
    fullRing.rptr.toNat < fullRing.cfg.ringN ∧ ({ fullRing with rptr := 3 } : State).wptr = ({ fullRing with rptr := 3 } : State).rptr := by decide
/-- The read cursor above the write cursor: one character at the last cell, one at the first. -/
theorem witness_DrainTakesFromTheFront_wrapped :
    let s : State := { fullRing with rbuf := [(0, 0x42), (3, 0x41)], wptr := 1, rptr := 3 }
    2 ≤ s.cfg.ringN ∧ s.cfg.ringN ≤ 65536 ∧ s.wptr.toNat < s.cfg.ringN ∧ s.rptr.toNat < s.cfg.ringN ∧
    s.wptr.toNat < s.rptr.toNat ∧ (drain 1 s).1 = [0x41] ∧ avail s = 2 := by decide
theorem witness_DrainTextReturnsTextAndTerminator :
    (1 : Arg) ≠ 0 ∧ (0xFFFFFF : Arg) ≠ 0 ∧ ∃ out s', drain ((16 : Arg).toNat - 1) fullRing = (out, s') := ⟨by decide, by decide, _, _, rfl⟩
theorem witness_DrainTextFrame :
    (∃ t, exec (.drainText .C 16) fullRing = .next t) ∧ (∃ t, exec (.drainText .P 1) fullRing = .next t) ∧ (1 : Arg).toNat ≤ 1 ∧
    fullRing.rptr.toNat < fullRing.cfg.ringN := ⟨⟨_, rfl⟩, ⟨_, rfl⟩, by decide, by decide⟩
theorem witness_OverflowKeepsTheNewest :
    (let s := State.resetWith (vectorParams 4); 2 ≤ s.cfg.ringN ∧ s.cfg.ringN ≤ 65536 ∧ s.wptr.toNat < s.cfg.ringN ∧ s.wptr = s.rptr ∧
      s.cfg.ringN - 1 ≤ 3 ∧ ([1, 2, 3, 4, 5, 6, 7, 8, 9] : List Byte).length = s.cfg.ringN + 5) := by decide

/-! ## Whole frames and whole-machine rules -/

/-- The instants of program P1: `t0` 2000, the confirmation at 12000, the bits and the stop bit from 32000 on. -/
theorem witness_FrameDeliversItsCode :
    ready.fstate = .idle ∧ ready.acc = 0 ∧ ready.cnt = 0 ∧ ready.halfp.toNat ≤ (elapsed 2000 12000).toNat ∧
    ∀ k : Fin 6, reached (2000 + ready.bitp + ready.halfp + BitVec.ofNat 32 k.val * ready.bitp) (BitVec.ofNat 32 (32000 + 20000 * k.val)) = true := by
  decide
theorem witness_FramingErrorEmitsNothing :
    ready.fstate = .idle ∧ ready.acc = 0 ∧ ready.cnt = 0 ∧ ready.halfp.toNat ≤ (elapsed 2000 12000).toNat ∧
    ∀ k : Fin 6, reached (2000 + ready.bitp + ready.halfp + BitVec.ofNat 32 k.val * ready.bitp) (BitVec.ofNat 32 (32000 + 20000 * k.val)) = true :=
  witness_FrameDeliversItsCode
theorem witness_FramingStateMovesOnlyAsListed :
    (nextState (exec .init inData)).map (fun t => t.fstate) = some .idle ∧
    (afterStep ready 2000 spaceWindow).map (fun t => t.fstate) = some .startConfirm ∧ ready.fstate = .idle := by decide
theorem witness_OnlyStepBeforeInitFaults :
    exec .step (State.resetWith (vectorParams 8)) = .fault .notInitialised ∧
    step (waitingOn .C 0x02000000) = .refused .wrongPort := ⟨rfl, rfl⟩
theorem witness_InitDoneStaysSet :
    (nextState (step (waitingOn .P 0x01000000))).map (fun t => t.initDone) = some true ∧ (waitingOn .P 0x01000000).initDone = false ∧
    (nextState (step (ready.issue .P 0x13000001))).map (fun t => t.initDone) = some true ∧ (ready.issue .P 0x13000001).initDone = true := by
  decide
theorem witness_DebugHasNoEffect : ∀ e, Instr.step ≠ .setDebug e := by decide
theorem witness_RingReachesTheRestOnlyThroughDrainText :
    (∀ p m, Instr.step ≠ .drainText p m) ∧
    State.producerView fullRing = State.producerView { fullRing with rbuf := [], rptr := 2, portC := [⟨0, noInputs⟩] } := ⟨by simp, rfl⟩
theorem witness_DrainInsideStepIsDrainBefore : ∃ tone now w, observe (withInputs ready 7 spaceWindow) = (tone, now, w) := ⟨_, _, _, rfl⟩

/-! ## Reset and invariants -/

theorem witness_ResetMeetsTheInvariant : (vectorParams 8).Legal := vectorParams_legal
theorem witness_StepKeepsFramingInvariant :
    State.FramingInv (inStop.issue .P 0x02000000) ∧ (nextState (step (inStop.issue .P 0x02000000))).isSome = true :=
  ⟨⟨by decide, by decide, by decide, by decide, by decide⟩, by decide⟩
theorem witness_StepKeepsRingInvariant :
    Params.Legal (inStop.issue .P 0x02000000).cfg ∧ State.RingInv (inStop.issue .P 0x02000000) ∧
    (nextState (step (inStop.issue .P 0x02000000))).isSome = true :=
  ⟨vectorParams_legal, ⟨by decide, by decide, by decide, by decide, by decide, by decide, by decide⟩, by decide⟩
theorem witness_StepKeepsConfiguration :
    State.ConfigInv (ready.issue .P 0x10000001) ∧ (nextState (step (ready.issue .P 0x10000001))).isSome = true :=
  ⟨⟨by decide, by decide, by decide, by decide, by decide⟩, by decide⟩
theorem witness_StepKeepsPrevCentred :
    State.PrevInv (ready.issue .P 0x02000000) ∧ (nextState (step (ready.issue .P 0x02000000))).isSome = true :=
  ⟨fun _ => by decide, by decide⟩
/-- A run: a word issued, and the step that takes it. -/
theorem witness_ReachableStatesMeetTheInvariant :
    (vectorParams 8).Legal ∧ ∃ t, step (waitingOn .P 0x11000004) = .next t ∧ Reachable (vectorParams 8) t :=
  ⟨vectorParams_legal, _, rfl, .step (.host .reset (.issue .P 0x11000004 noInputs)) rfl⟩

end Sys2Proof.Tests
end

section
/-! The configuration registers: which operations leave them as they are (`SameConfig`), and that every command keeps the
invariant of spec/10_state.md R22 to R26 on them (`State.ConfigInv`). -/

namespace Sys2Proof.Machine

/-! ## What leaves the configuration registers as they are -/

theorem SameConfig.trans {s t u : State} (h : SameConfig s t) (h' : SameConfig t u) : SameConfig s u := by
  obtain ⟨hcfg, hbaud, hbitp, hhalfp, hwin, hthr, hdbg⟩ := h
  obtain ⟨hcfg', hbaud', hbitp', hhalfp', hwin', hthr', hdbg'⟩ := h'
  exact ⟨hcfg'.trans hcfg, hbaud'.trans hbaud, hbitp'.trans hbitp, hhalfp'.trans hhalfp, hwin'.trans hwin,
    hthr'.trans hthr, hdbg'.trans hdbg⟩

theorem sameConfig_respond (s : State) (p : Port) (r : Response) : SameConfig s (s.respond p r) := by
  simp [SameConfig]

theorem sameConfig_takeCommand {s t : State} {p : Port} {w : Word} (h : takeCommand s = some (p, w, t)) :
    SameConfig s t := by
  rw [takeCommand_state h]; simp [SameConfig]

theorem sameConfig_pullCentred (s : State) : SameConfig s (pullCentred s).2 := by
  rw [pullCentred_state]; simp [SameConfig]

theorem sameConfig_observe {s w : State} {tone : Tone} {now : Time} (h : observe s = (tone, now, w)) :
    SameConfig s w := by
  rw [observe_eq h]; simp [SameConfig]

theorem sameConfig_drain (m : Nat) (s : State) : SameConfig s (drain m s).2 := by
  rw [drain_state]; simp [SameConfig]

/-- The framing machine reads the configuration and writes none of it (R121 to R132). -/
theorem sameConfig_frameStep (tone : Tone) (now : Time) (s : State) : SameConfig s (frameStep tone now s) := by
  rcases frameStep_cases tone now s with
    e | ⟨_, _, e⟩ | ⟨_, _, _, e⟩ | ⟨_, _, _, e⟩ | ⟨_, _, e⟩ | ⟨_, _, _, e⟩ | ⟨_, _, _, e⟩ <;> rw [e]
  · simp [SameConfig]
  · simp [SameConfig]
  · simp [SameConfig, confirm]
  · simp [SameConfig, reject]
  · rw [sampleBit_state]; simp [SameConfig]
  · rw [stopValid_state]; simp [SameConfig]
  · simp [SameConfig, stopError]

/-! ## The invariant on them -/

/-- The invariant speaks of the configuration registers only. -/
theorem State.ConfigInv.of_sameConfig {s t : State} (hs : s.ConfigInv) (h : SameConfig s t) : t.ConfigInv := by
  obtain ⟨-, hbaud, hbitp, hhalfp, hwin, hthr, -⟩ := h
  exact ⟨hbaud ▸ hs.baud_pos, hwin ▸ hs.win_pos, hthr ▸ hs.thr_pos, by rw [hbitp, hbaud, hs.bitp_eq],
    by rw [hhalfp, hbitp, hs.halfp_eq]⟩

theorem State.ConfigInv.respond {s : State} (hs : s.ConfigInv) (p : Port) (r : Response) :
    (s.respond p r).ConfigInv :=
  hs.of_sameConfig (sameConfig_respond s p r)

/-- Every command keeps the invariant: a setter writes a value only where it is not 0, and SET_BAUD the periods with the rate
(R192 to R194, R196); the others write no configuration register but `DBG`. -/
theorem exec_configInv {i : Instr} {s t : State} (h : exec i s = .next t) (hs : s.ConfigInv) : t.ConfigInv := by
  cases i with
  | init =>
    rw [exec_init_next h]
    exact ((hs.of_sameConfig (sameConfig_pullCentred s)).of_sameConfig (by simp [SameConfig])).respond _ _
  | step =>
    obtain ⟨tone, now, w, -, ho, rfl⟩ := exec_step_next h
    exact (hs.of_sameConfig ((sameConfig_observe ho).trans (sameConfig_frameStep tone now w))).respond _ _
  | drainText p m =>
    rcases exec_drainText_next h with ⟨-, rfl⟩ | ⟨-, rfl⟩
    · exact hs.respond _ _
    · exact (hs.of_sameConfig (sameConfig_drain _ _)).respond _ _
  | setBaud r =>
    rw [exec_setBaud_next h]
    split
    · exact hs.respond _ _
    · next hr => apply State.ConfigInv.respond; exact { hs with baud_pos := hr, bitp_eq := rfl, halfp_eq := rfl }
  | setWindow n =>
    rw [exec_setWindow_next h]
    split
    · exact hs.respond _ _
    · next hn => apply State.ConfigInv.respond; exact { hs with win_pos := hn }
  | setThreshold n =>
    rw [exec_setThreshold_next h]
    split
    · exact hs.respond _ _
    · next hn => apply State.ConfigInv.respond; exact { hs with thr_pos := hn }
  | setDebug e =>
    rw [exec_setDebug_next h]
    apply State.ConfigInv.respond; exact { hs with }

/-- Settles O58: a step waits, or runs a command on the state its taking left, which has the configuration of the old one. -/
theorem stepKeepsConfiguration : Obligations.StepKeepsConfiguration := by
  intro s t h
  rcases step_next h with rfl | ⟨p, w, s', i, htake, -, hexec⟩
  · exact ⟨rfl, id⟩
  · have hsame : SameConfig s s' := sameConfig_takeCommand htake
    exact ⟨(exec_cfg hexec).trans hsame.1, fun hs => exec_configInv hexec (hs.of_sameConfig hsame)⟩

end Sys2Proof.Machine
end

section
/-! What a command leaves unchanged, said once for the operations several statements share, and the step rule for invariants:
the setters' frame (spec/44_control.md R196), `INIT_DONE` (spec/10_state.md R29) and the invariants of R40 in every reachable
state. -/

namespace Sys2Proof.Machine

/-! ## Frames -/

/-- The states differ only in the queues of the ports, the inputs and the responses: everything of R20 is the same. -/
def SameCore (s t : State) : Prop :=
  t = { s with
    portP := t.portP, portC := t.portC, arb := t.arb, samples := t.samples, clock := t.clock, drawn := t.drawn,
    respP := t.respP, respC := t.respC }

theorem sameCore_respond (s : State) (p : Port) (r : Response) : SameCore s (s.respond p r) := by
  cases p <;> rfl

theorem sameCore_takeCommand {s t : State} {p : Port} {w : Word} (h : takeCommand s = some (p, w, t)) :
    SameCore s t := by
  rw [takeCommand_state h]; rfl

theorem sameCore_hostAction {s t : State} (h : HostAction s t) : SameCore s t := by
  cases h with
  | issue port w inputs => cases port <;> rfl
  | samples xs => rfl
  | clock t => rfl
  | grant p => rfl

theorem SameCore.cfg_eq {s t : State} (h : SameCore s t) : t.cfg = s.cfg := by rw [h]

theorem SameCore.initDone_eq {s t : State} (h : SameCore s t) : t.initDone = s.initDone := by rw [h]

theorem SameCore.sameConfig {s t : State} (h : SameCore s t) : SameConfig s t := by
  rw [h]; simp [SameConfig]

theorem SameCore.sameFraming {s t : State} (h : SameCore s t) : SameFraming s t := by
  rw [h]; simp [SameFraming]

/-- A property that what stands around the core cannot touch, and that every command keeps, is kept by every step. -/
theorem step_keeps {J : State → Prop} (hcore : ∀ {s t}, SameCore s t → J s → J t)
    (hexec : ∀ {i s t}, exec i s = .next t → J s → J t) {s t : State} (h : step s = .next t) (hs : J s) : J t := by
  rcases step_next h with rfl | ⟨p, w, s', i, htake, -, hi⟩
  · exact hs
  · exact hexec hi (hcore (sameCore_takeCommand htake) hs)

/-- The four commands of R192 to R195. -/
abbrev IsSetter (i : Instr) : Prop :=
  i.mnemonic ∈ [.SET_BAUD, .SET_WINDOW, .SET_THRESHOLD, .SET_DEBUG]

/-- A setter changes configuration registers and port P's responses, nothing else (R42, R196). -/
theorem exec_setter_state {i : Instr} {s t : State} (hi : IsSetter i) (h : exec i s = .next t) :
    t = { s with
      baud := t.baud, bitp := t.bitp, halfp := t.halfp, win := t.win, thr := t.thr, dbg := t.dbg, respP := t.respP } := by
  cases i with
  | init | step | drainText => simp [IsSetter, Instr.mnemonic] at hi
  | setBaud r => rw [exec_setBaud_next h]; split <;> rfl
  | setWindow n => rw [exec_setWindow_next h]; split <;> rfl
  | setThreshold n => rw [exec_setThreshold_next h]; split <;> rfl
  | setDebug e => rw [exec_setDebug_next h]; rfl

/-- A setter leaves the registers of the other setters as they are (R196). -/
theorem exec_setter_others {i : Instr} {s t : State} (hi : IsSetter i) (h : exec i s = .next t) :
    (i.mnemonic ≠ .SET_BAUD → t.baud = s.baud ∧ t.bitp = s.bitp ∧ t.halfp = s.halfp) ∧
    (i.mnemonic ≠ .SET_WINDOW → t.win = s.win) ∧ (i.mnemonic ≠ .SET_THRESHOLD → t.thr = s.thr) ∧
    (i.mnemonic ≠ .SET_DEBUG → t.dbg = s.dbg) := by
  cases i with
  | init | step | drainText => simp [IsSetter, Instr.mnemonic] at hi
  | setBaud r => rw [exec_setBaud_next h]; split <;> simp [Instr.mnemonic]
  | setWindow n => rw [exec_setWindow_next h]; split <;> simp [Instr.mnemonic]
  | setThreshold n => rw [exec_setThreshold_next h]; split <;> simp [Instr.mnemonic]
  | setDebug e => rw [exec_setDebug_next h]; simp [Instr.mnemonic]

/-- A DRAIN_TEXT changes `RPTR` and the responses, nothing else (R172). -/
theorem exec_drainText_state {p : Port} {m : Arg} {s t : State} (h : exec (.drainText p m) s = .next t) :
    t = { s with rptr := t.rptr, respP := t.respP, respC := t.respC } := by
  rcases exec_drainText_next h with ⟨-, rfl⟩ | ⟨-, rfl⟩ <;> cases p <;> rfl

/-- A framing transition writes the framing and timing registers, SHIFT and the ring, nothing else (R122 to R132). -/
theorem frameStep_state (tone : Tone) (now : Time) (s : State) :
    frameStep tone now s = { s with
      fstate := (frameStep tone now s).fstate, tStart := (frameStep tone now s).tStart
      tNext := (frameStep tone now s).tNext, acc := (frameStep tone now s).acc, cnt := (frameStep tone now s).cnt
      shift := (frameStep tone now s).shift, rbuf := (frameStep tone now s).rbuf
      wptr := (frameStep tone now s).wptr, rptr := (frameStep tone now s).rptr } := by
  rcases frameStep_cases tone now s with
    e | ⟨_, _, e⟩ | ⟨_, _, _, e⟩ | ⟨_, _, _, e⟩ | ⟨_, _, e⟩ | ⟨_, _, _, e⟩ | ⟨_, _, _, e⟩ <;> rw [e]
  · rfl
  · rfl
  · rw [sampleBit_state]
  · rw [stopValid_state]
  · rfl

/-- Settles O22: what a setter leaves of the rest of the machine, and of the other setters' registers. -/
theorem setterFrame : Obligations.SetterFrame := by
  intro i s t hi h
  have hrest := exec_setter_state hi h
  have hothers := exec_setter_others hi h
  refine ⟨?_, ?_, ?_, ?_, ?_, ?_, ?_, ?_, ?_, ?_, hothers⟩ <;> rw [hrest] <;>
    simp [SameFraming, SameRing, SamePorts, SameInputs]

/-! ## INIT_DONE -/

theorem exec_init_initDone {s t : State} (h : exec .init s = .next t) : t.initDone = true := by
  rw [exec_init_next h, respond_initDone]

theorem exec_step_of_not_initDone {s : State} (h : s.initDone = false) : exec .step s = .fault .notInitialised := by
  simp [exec, execStep, raiseNotInitialised, h]

/-- Only INIT writes `INIT_DONE` (R29). -/
theorem exec_initDone {i : Instr} {s t : State} (h : exec i s = .next t) (hi : i ≠ .init) : t.initDone = s.initDone := by
  cases i with
  | init => exact absurd rfl hi
  | step =>
    obtain ⟨tone, now, w, -, ho, rfl⟩ := exec_step_next h
    rw [respond_initDone, frameStep_state, observe_eq ho]
  | drainText p m => rw [exec_drainText_state h]
  | setBaud _ | setWindow _ | setThreshold _ | setDebug _ =>
    rw [exec_setter_state (by simp [IsSetter, Instr.mnemonic]) h]

theorem exec_keeps_initDone {i : Instr} {s t : State} (h : exec i s = .next t) (hs : s.initDone = true) :
    t.initDone = true := by
  by_cases hi : i = .init
  · subst hi; exact exec_init_initDone h
  · exact (exec_initDone h hi).trans hs

/-- A step that sets `INIT_DONE` has taken an INIT (R29). -/
theorem step_takes_init {s t : State} (h : step s = .next t) (hs : s.initDone = false) (ht : t.initDone = true) :
    ∃ port w s', takeCommand s = some (port, w, s') ∧ decode port w = .ok .init := by
  rcases step_next h with rfl | ⟨p, w, s', i, htake, hdec, hexec⟩
  · simp [hs] at ht
  · have hs' : s'.initDone = false := (sameCore_takeCommand htake).initDone_eq.trans hs
    have hi : i = .init := by
      by_contra hne
      rw [exec_initDone hexec hne, hs'] at ht
      cases ht
    exact ⟨p, w, s', htake, hi ▸ hdec⟩

/-- Settles O50: INIT sets the flag, no other command writes it, and taking a command leaves it. -/
theorem initDoneStaysSet : Obligations.InitDoneStaysSet :=
  ⟨resetWith_initDone, fun _ _ => exec_init_initDone, fun _ => exec_step_of_not_initDone, fun _ _ h =>
    ⟨step_keeps (J := fun s => s.initDone = true) (fun hc hs => hc.initDone_eq.trans hs) exec_keeps_initDone h,
      step_takes_init h⟩⟩

/-! ## The framing invariant (R40, points 1 to 5) -/

/-- The invariant speaks of the framing registers only. -/
theorem State.FramingInv.of_sameFraming {s t : State} (hs : s.FramingInv) (h : SameFraming s t) : t.FramingInv := by
  obtain ⟨hfstate, -, -, hacc, hcnt⟩ := h
  constructor <;> rw [hcnt]
  · exact hs.cnt_le
  · rw [hfstate, hacc]; exact hs.idle_clear
  · rw [hfstate]; exact hs.data_cnt
  · rw [hfstate]; exact hs.stop_iff
  · rw [hacc]; exact hs.acc_lt

/-- Outside StopBits, cleared registers meet the invariant. -/
theorem framingInv_of_clear {s : State} (hcnt : s.cnt = 0) (hacc : s.acc = 0) (hf : s.fstate ≠ .stopBits) :
    s.FramingInv := by
  constructor <;> simp [hcnt, hacc, hf]

theorem bitOf_shiftLeft_lt (tone : Tone) (k : Nat) : (bitOf tone <<< k).toNat < 2 ^ (k + 1) := by
  have hbit : (bitOf tone).toNat ≤ 1 := by cases tone <;> decide
  calc (bitOf tone <<< k).toNat
      ≤ (bitOf tone).toNat * 2 ^ k := by
        rw [BitVec.toNat_shiftLeft, Nat.shiftLeft_eq]; exact Nat.mod_le _ _
    _ ≤ 1 * 2 ^ k := Nat.mul_le_mul_right _ hbit
    _ < 2 ^ (k + 1) := by have := Nat.two_pow_pos k; omega

/-- A data bit goes above the bits received so far, and the fifth one ends them (R128, R129). -/
theorem sampleBit_framingInv {tone : Tone} {s : State} (hs : s.FramingInv) (hf : s.fstate = .dataBits) :
    (sampleBit tone s).FramingInv := by
  have hle : s.cnt.toNat ≤ 4 := hs.data_cnt hf
  have hcnt : (s.cnt + 1).toNat = s.cnt.toNat + 1 := by
    rw [BitVec.toNat_add, Nat.mod_eq_of_lt] <;> simp; omega
  have hfive : s.cnt + 1 = 5 ↔ s.cnt.toNat + 1 = 5 := by rw [← hcnt]; exact BitVec.toNat_inj.symm
  have hacc : (s.acc ||| (bitOf tone <<< s.cnt.toNat)).toNat < 2 ^ (s.cnt.toNat + 1) := by
    rw [BitVec.toNat_or]
    exact Nat.or_lt_two_pow (hs.acc_lt.trans (Nat.pow_lt_pow_succ (by decide))) (bitOf_shiftLeft_lt tone _)
  rw [sampleBit_state]
  constructor <;> simp only [hf, hfive, hcnt]
  · omega
  · split <;> simp
  · split <;> simp; omega
  · split <;> simp [*]
  · exact hacc

/-- Every transition keeps the invariant: out of Idle the registers are clear already, a data bit is `sampleBit_framingInv`,
and the others clear them. -/
theorem frameStep_framingInv {s : State} (tone : Tone) (now : Time) (hs : s.FramingInv) :
    (frameStep tone now s).FramingInv := by
  rcases frameStep_cases tone now s with
    e | ⟨hf, _, e⟩ | ⟨_, _, _, e⟩ | ⟨_, _, _, e⟩ | ⟨hf, _, e⟩ | ⟨_, _, _, e⟩ | ⟨_, _, _, e⟩ <;> rw [e]
  · exact hs
  · obtain ⟨hcnt, hacc⟩ := hs.idle_clear (.inl hf)
    exact framingInv_of_clear hcnt hacc (by simp)
  · exact framingInv_of_clear rfl rfl (by simp [confirm])
  · exact framingInv_of_clear rfl rfl (by simp [reject])
  · exact sampleBit_framingInv hs hf
  · rw [stopValid_state]; exact framingInv_of_clear rfl rfl (by simp)
  · exact framingInv_of_clear rfl rfl (by simp [stopError])

theorem exec_framingInv {i : Instr} {s t : State} (h : exec i s = .next t) (hs : s.FramingInv) : t.FramingInv := by
  cases i with
  | init => rw [exec_init_next h]; exact framingInv_of_clear rfl rfl (by simp)
  | step =>
    obtain ⟨tone, now, w, -, ho, rfl⟩ := exec_step_next h
    have hw : w.FramingInv := hs.of_sameFraming (by rw [observe_eq ho]; simp [SameFraming])
    exact (frameStep_framingInv tone now hw).of_sameFraming (sameCore_respond _ _ _).sameFraming
  | drainText p m => rw [exec_drainText_state h]; exact hs.of_sameFraming (by simp [SameFraming])
  | setBaud _ | setWindow _ | setThreshold _ | setDebug _ =>
    rw [exec_setter_state (by simp [IsSetter, Instr.mnemonic]) h]
    exact hs.of_sameFraming (by simp [SameFraming])

theorem step_framingInv {s t : State} (h : step s = .next t) (hs : s.FramingInv) : t.FramingInv :=
  step_keeps (fun hc hj => hj.of_sameFraming hc.sameFraming) exec_framingInv h hs

/-! ## The ring invariant (R40, points 6 and 7) -/

theorem cursorPlus_congr {s t : State} (h : t.cfg = s.cfg) (c : Cursor) (k : Nat) :
    cursorPlus t c k = cursorPlus s c k := by
  rw [cursorPlus, cursorPlus, h]

/-- The invariant speaks of the ring and its capacity only. -/
theorem State.RingInv.of_eq {s t : State} (hs : s.RingInv) (hcfg : t.cfg = s.cfg) (hrbuf : t.rbuf = s.rbuf)
    (hwptr : t.wptr = s.wptr) (hrptr : t.rptr = s.rptr) : t.RingInv := by
  have havail : avail t = avail s := by simp only [avail, hcfg, hwptr, hrptr]
  have hplus : ∀ k, cursorPlus t s.rptr k = cursorPlus s s.rptr k := cursorPlus_congr hcfg s.rptr
  obtain ⟨hw, hr, hle, hwf, hlt, hchar, hwritten⟩ := hs
  constructor <;> simpa only [hcfg, hrbuf, hwptr, hrptr, havail, hplus]

theorem State.RingInv.of_sameCore {s t : State} (hs : s.RingInv) (h : SameCore s t) : t.RingInv := by
  rw [h]; exact hs.of_eq rfl rfl rfl rfl

/-- One cell on, with the wrap written out. -/
theorem cursorPlus_one {s : State} {c : Cursor} (hc : c.toNat < s.cfg.ringN) :
    cursorPlus s c 1 = if c.toNat + 1 < s.cfg.ringN then c.toNat + 1 else 0 := by
  split
  · exact cursorPlus_of_lt ‹_›
  · rw [cursorPlus, show c.toNat + 1 = s.cfg.ringN by omega, Nat.mod_self]

/-- The write cursor is one behind the read cursor exactly when the ring is full (R170). -/
theorem cursorPlus_wptr_eq_rptr_iff {s : State} (hw : s.wptr.toNat < s.cfg.ringN) (hr : s.rptr.toNat < s.cfg.ringN) :
    cursorPlus s s.wptr 1 = s.rptr.toNat ↔ avail s + 1 = s.cfg.ringN := by
  rw [cursorPlus_one hw, avail_eq hw hr]
  split <;> split <;> omega

/-- The unread characters a PUSH drops: the oldest one where the ring is full (R170). -/
def pushDrops (s : State) : Nat := if avail s + 1 = s.cfg.ringN then 1 else 0

theorem push_cfg (c : Byte) (s : State) : (push c s).cfg = s.cfg := by rw [push_state]

theorem push_rbuf (c : Byte) (s : State) : (push c s).rbuf = s.rbuf.write (pushIndex s) c := by rw [push_state]

section Push
variable {s : State} (c : Byte) (hN : s.cfg.ringN ≤ 65536) (hw : s.wptr.toNat < s.cfg.ringN)
  (hr : s.rptr.toNat < s.cfg.ringN)
include hN hw

theorem push_wptr_toNat : (push c s).wptr.toNat = cursorPlus s s.wptr 1 := by
  rw [push_state]
  exact cursor_toNat hN (cursorPlus_lt (by omega) _ _)

include hr

theorem push_rptr_toNat : (push c s).rptr.toNat = cursorPlus s s.rptr (pushDrops s) := by
  rw [push_state]
  simp only [cursorPlus_wptr_eq_rptr_iff hw hr, pushDrops]
  split
  · exact cursor_toNat hN (cursorPlus_lt (by omega) _ _)
  · exact (Nat.mod_eq_of_lt hr).symm

/-- The unread characters after a PUSH are those from the first one kept (R170). -/
theorem cursorPlus_push_rptr (k : Nat) :
    cursorPlus (push c s) (push c s).rptr k = cursorPlus s s.rptr (pushDrops s + k) :=
  (cursorPlus_congr (push_cfg c s) _ k).trans (cursorPlus_add (push_rptr_toNat c hN hw hr) k)

/-- A PUSH adds one unread character and takes away those it drops (R170). -/
theorem avail_push : avail (push c s) = avail s + 1 - pushDrops s := by
  have hlt : avail s < s.cfg.ringN := avail_lt hw hr
  have hdrops : pushDrops s ≤ 1 ∧ avail s + 1 - pushDrops s < s.cfg.ringN := by
    unfold pushDrops; split <;> omega
  have hcell : cursorPlus (push c s) (push c s).rptr (avail s + 1 - pushDrops s) = (push c s).wptr.toNat := by
    rw [cursorPlus_push_rptr c hN hw hr, push_wptr_toNat c hN hw, cursorPlus_add (cursorPlus_avail hw hr).symm]
    congr 1; omega
  have hpos : 0 < s.cfg.ringN := by omega
  refine avail_unique ?_ ?_ ?_ hcell <;> rw [push_cfg]
  · rw [push_wptr_toNat c hN hw]; exact cursorPlus_lt hpos _ _
  · rw [push_rptr_toNat c hN hw hr]; exact cursorPlus_lt hpos _ _
  · exact hdrops.2

end Push

/-- After a PUSH every cell from the old read cursor up to the pushed one is written. -/
theorem push_written {s : State} (hs : s.RingInv) (c : Byte) {k : Nat} (hk : k ≤ avail s) :
    ((push c s).rbuf.read (cursorPlus s s.rptr k)).isSome := by
  rw [push_rbuf]
  by_cases hkw : cursorPlus s s.rptr k = pushIndex s
  · rw [hkw, read_write_same]; rfl
  · rw [read_write_other _ _ hkw]
    refine hs.written k (lt_of_le_of_ne hk ?_)
    rintro rfl
    exact hkw (cursorPlus_avail hs.wptr_lt hs.rptr_lt)

theorem push_ringInv {s : State} {c : Byte} (hN : s.cfg.ringN ≤ 65536) (hs : s.RingInv) (hc : c ≠ 0) :
    (push c s).RingInv := by
  have hw := hs.wptr_lt
  have hr := hs.rptr_lt
  have hpos : 0 < s.cfg.ringN := by omega
  have hmem : ∀ d ∈ (push c s).rbuf, d = (s.wptr.toNat, c) ∨ d ∈ s.rbuf := fun d hd => mem_write (push_rbuf c s ▸ hd)
  have havail : avail (push c s) = avail s + 1 - pushDrops s := avail_push c hN hw hr
  constructor
  case wptr_lt => rw [push_cfg, push_wptr_toNat c hN hw]; exact cursorPlus_lt hpos _ _
  case rptr_lt => rw [push_cfg, push_rptr_toNat c hN hw hr]; exact cursorPlus_lt hpos _ _
  case avail_le =>
    have := avail_lt hw hr
    rw [havail, push_cfg, pushDrops]; split <;> omega
  case mem_wf => rw [push_rbuf]; exact write_wf _ _ hs.mem_wf
  case mem_lt =>
    intro d hd
    rw [push_cfg]
    rcases hmem d hd with rfl | hd
    · exact hw
    · exact hs.mem_lt d hd
  case mem_char =>
    intro d hd
    rcases hmem d hd with rfl | hd
    · exact hc
    · exact hs.mem_char d hd
  case written =>
    intro k hk
    rw [cursorPlus_push_rptr c hN hw hr]
    exact push_written hs c (by omega)

theorem drain_ringInv {s : State} (m : Nat) (hN : s.cfg.ringN ≤ 65536) (hs : s.RingInv) : (drain m s).2.RingInv := by
  have hw := hs.wptr_lt
  have hr := hs.rptr_lt
  have hpos : 0 < s.cfg.ringN := by omega
  have hrptr : (drain m s).2.rptr.toNat = cursorPlus s s.rptr (min (avail s) m) :=
    cursor_toNat hN (cursorPlus_lt hpos _ _)
  have hr' : (drain m s).2.rptr.toNat < s.cfg.ringN := hrptr ▸ cursorPlus_lt hpos _ _
  have hplus : ∀ k, cursorPlus (drain m s).2 (drain m s).2.rptr k = cursorPlus s s.rptr (min (avail s) m + k) :=
    fun k => cursorPlus_add hrptr k
  have hlt := avail_lt hw hr
  have havail : avail (drain m s).2 = avail s - min (avail s) m := by
    refine avail_unique hw hr' (show _ < s.cfg.ringN by omega) ?_
    rw [hplus, show min (avail s) m + (avail s - min (avail s) m) = avail s by omega]
    exact cursorPlus_avail hw hr
  constructor
  case wptr_lt => exact hw
  case rptr_lt => exact hr'
  case avail_le => rw [havail]; exact (Nat.sub_le _ _).trans hs.avail_le
  case mem_wf => exact hs.mem_wf
  case mem_lt => exact hs.mem_lt
  case mem_char => exact hs.mem_char
  case written =>
    intro k hk
    rw [hplus]
    exact hs.written _ (by omega)

/-- No code decodes to the byte 0x00 (R5, R154). -/
theorem baudotDecode_ne_zero {p : Params} (hp : p.Legal) {code : Code} {shift : ShiftState} {c : Byte}
    (h : (baudotDecode p code shift).1 = some c) : c ≠ 0 := by
  rintro rfl
  have hl := hp.ltrTable.2.2.2 ⟨code.toNat, code.isLt⟩
  have hf := hp.figTable.2.2.2 ⟨code.toNat, code.isLt⟩
  unfold baudotDecode at h
  split at h
  · cases h
  · split at h
    · cases h
    · cases shift
      · exact hl h
      · exact hf h

theorem deliver_ringInv {ch : Option Byte} {s : State} (hs : s.RingInv) (hN : s.cfg.ringN ≤ 65536)
    (hch : ∀ c, ch = some c → c ≠ 0) : (deliver ch s).RingInv := by
  cases ch with
  | none => exact hs
  | some c => exact push_ringInv hN hs (hch c rfl)

theorem stopValid_ringInv {s : State} (hp : s.cfg.Legal) (hs : s.RingInv) : (stopValid s).RingInv := by
  have hshift : ({ s with shift := (baudotDecode s.cfg s.acc s.shift).2 } : State).RingInv := hs.of_eq rfl rfl rfl rfl
  exact (deliver_ringInv hshift hp.ringN_le fun _ => baudotDecode_ne_zero hp).of_eq rfl rfl rfl rfl

/-- Only a valid stop bit writes the ring (R131). -/
theorem frameStep_ringInv {s : State} (tone : Tone) (now : Time) (hp : s.cfg.Legal) (hs : s.RingInv) :
    (frameStep tone now s).RingInv := by
  rcases frameStep_cases tone now s with
    e | ⟨_, _, e⟩ | ⟨_, _, _, e⟩ | ⟨_, _, _, e⟩ | ⟨_, _, e⟩ | ⟨_, _, _, e⟩ | ⟨_, _, _, e⟩ <;> rw [e]
  · exact hs
  · exact hs.of_eq rfl rfl rfl rfl
  · exact hs.of_eq rfl rfl rfl rfl
  · exact hs.of_eq rfl rfl rfl rfl
  · rw [sampleBit_state]; exact hs.of_eq rfl rfl rfl rfl
  · exact stopValid_ringInv hp hs
  · exact hs.of_eq rfl rfl rfl rfl

theorem exec_ringInv {i : Instr} {s t : State} (h : exec i s = .next t) (hp : s.cfg.Legal) (hs : s.RingInv) :
    t.RingInv := by
  cases i with
  | init =>
    rw [exec_init_next h, pullCentred_state]
    exact hs.of_eq rfl rfl rfl rfl
  | step =>
    obtain ⟨tone, now, w, -, ho, rfl⟩ := exec_step_next h
    have hw : w.cfg = s.cfg := by rw [observe_eq ho]
    have hwinv : w.RingInv := by rw [observe_eq ho]; exact hs.of_eq rfl rfl rfl rfl
    exact (frameStep_ringInv tone now (hw ▸ hp) hwinv).of_sameCore (sameCore_respond _ _ _)
  | drainText p m =>
    rcases exec_drainText_next h with ⟨-, rfl⟩ | ⟨-, rfl⟩
    · exact hs.of_sameCore (sameCore_respond _ _ _)
    · exact (drain_ringInv _ hp.ringN_le hs).of_sameCore (sameCore_respond _ _ _)
  | setBaud _ | setWindow _ | setThreshold _ | setDebug _ =>
    rw [exec_setter_state (by simp [IsSetter, Instr.mnemonic]) h]
    exact hs.of_eq rfl rfl rfl rfl

theorem step_ringInv {s t : State} (h : step s = .next t) (hp : s.cfg.Legal) (hs : s.RingInv) : t.RingInv :=
  (step_keeps (J := fun s => s.cfg.Legal ∧ s.RingInv)
    (fun hc ⟨hp, hs⟩ => ⟨hc.cfg_eq ▸ hp, hs.of_sameCore hc⟩)
    (fun hi ⟨hp, hs⟩ => ⟨exec_cfg hi ▸ hp, exec_ringInv hi hp hs⟩) h ⟨hp, hs⟩).2

/-! ## The invariant on PREV (R28, R100) -/

/-- `PREV` is in the range of R100. -/
def State.PrevCentred (s : State) : Prop :=
  -(s.cfg.dcMid.toNat : Int) ≤ s.prev.toInt ∧ s.prev.toInt ≤ 2 ^ s.cfg.sampleW - 1 - (s.cfg.dcMid.toNat : Int)

theorem State.prevInv_iff {s : State} : s.PrevInv ↔ (s.initDone = true → s.PrevCentred) := Iff.rfl

theorem State.PrevCentred.of_eq {s t : State} (hs : s.PrevCentred) (hcfg : t.cfg = s.cfg) (hprev : t.prev = s.prev) :
    t.PrevCentred := by
  rw [State.PrevCentred, hcfg, hprev]; exact hs

theorem State.PrevInv.of_eq {s t : State} (hs : s.PrevInv) (hcfg : t.cfg = s.cfg) (hprev : t.prev = s.prev)
    (hinit : t.initDone = s.initDone) : t.PrevInv :=
  State.prevInv_iff.2 fun ht => (State.prevInv_iff.1 hs (hinit.symm.trans ht)).of_eq hcfg hprev

theorem State.PrevInv.of_sameCore {s t : State} (hs : s.PrevInv) (h : SameCore s t) : t.PrevInv := by
  rw [h]; exact hs.of_eq rfl rfl rfl

/-- A pulled sample, centred, is in the range. -/
theorem prevCentred_of_pullCentred {s t : State} (hcfg : t.cfg = s.cfg) (hprev : t.prev = (pullCentred s).1) :
    t.PrevCentred := by
  rw [State.PrevCentred, hcfg, hprev]
  exact centre_bounds (pull_lt s)

theorem windowLoop_prevCentred {s : State} (n count : Nat) (hs : s.PrevCentred) :
    (windowLoop n count s).2.PrevCentred := by
  induction n generalizing count s with
  | zero => exact hs
  | succ n ih => exact ih _ (prevCentred_of_pullCentred (sameConfig_pullCentred s).1 rfl)

theorem observe_prevCentred {s : State} (hs : s.PrevCentred) : (observe s).2.2.PrevCentred := by
  have hobs : (observe s).2.2 = (readClock (discriminate s).2).2 := rfl
  rw [hobs, readClock_state]
  exact (windowLoop_prevCentred s.win.toNat 0 hs).of_eq rfl rfl

theorem exec_prevInv {i : Instr} {s t : State} (h : exec i s = .next t) (hs : s.PrevInv) : t.PrevInv := by
  cases i with
  | init =>
    rw [exec_init_next h]
    refine State.PrevInv.of_sameCore ?_ (sameCore_respond _ _ _)
    exact fun _ => prevCentred_of_pullCentred (sameConfig_pullCentred s).1 rfl
  | step =>
    obtain ⟨tone, now, w, hinit, ho, rfl⟩ := exec_step_next h
    have hw : w.PrevCentred := by simpa [ho] using observe_prevCentred (State.prevInv_iff.1 hs hinit)
    have hframe : (frameStep tone now w).PrevCentred := by rw [frameStep_state]; exact hw.of_eq rfl rfl
    exact State.PrevInv.of_sameCore (fun _ => hframe) (sameCore_respond _ _ _)
  | drainText p m => rw [exec_drainText_state h]; exact hs.of_eq rfl rfl rfl
  | setBaud _ | setWindow _ | setThreshold _ | setDebug _ =>
    rw [exec_setter_state (by simp [IsSetter, Instr.mnemonic]) h]
    exact hs.of_eq rfl rfl rfl

theorem step_prevInv {s t : State} (h : step s = .next t) (hs : s.PrevInv) : t.PrevInv :=
  step_keeps (fun hc hj => hj.of_sameCore hc) exec_prevInv h hs

/-! ## Every reachable state -/

theorem resetWith_framingInv (p : Params) : (State.resetWith p).FramingInv :=
  framingInv_of_clear rfl rfl (by simp)

theorem resetWith_avail (p : Params) : avail (State.resetWith p) = 0 := by
  simp [avail]

theorem resetWith_ringInv {p : Params} (hp : p.Legal) : (State.resetWith p).RingInv := by
  have hN : 2 ≤ p.ringN := hp.ringN_ge
  constructor <;> simp [resetWith_avail] <;> omega

theorem ne_zero_of_one_le_toNat {a : Arg} (h : 1 ≤ a.toNat) : a ≠ 0 := by
  rintro rfl; simp at h

theorem resetWith_configInv {p : Params} (hp : p.Legal) : (State.resetWith p).ConfigInv where
  baud_pos := ne_zero_of_one_le_toNat hp.baud0_pos
  win_pos := ne_zero_of_one_le_toNat hp.win0_pos
  thr_pos := ne_zero_of_one_le_toNat hp.thr0_pos
  bitp_eq := rfl
  halfp_eq := rfl

theorem resetWith_prevInv (p : Params) : (State.resetWith p).PrevInv :=
  fun h => absurd h (by simp)

theorem resetWith_inv {p : Params} (hp : p.Legal) : (State.resetWith p).Inv where
  legal := hp
  framing := resetWith_framingInv p
  ring := resetWith_ringInv hp
  config := resetWith_configInv hp
  prev := resetWith_prevInv p

/-- No part of the invariant speaks of the ports, the inputs or the responses. -/
theorem State.Inv.of_sameCore {s t : State} (hs : s.Inv) (h : SameCore s t) : t.Inv where
  legal := h.cfg_eq ▸ hs.legal
  framing := hs.framing.of_sameFraming h.sameFraming
  ring := hs.ring.of_sameCore h
  config := hs.config.of_sameConfig h.sameConfig
  prev := hs.prev.of_sameCore h

theorem step_inv {s t : State} (h : step s = .next t) (hs : s.Inv) : t.Inv := by
  obtain ⟨hcfg, hconfig⟩ := stepKeepsConfiguration s t h
  exact ⟨hcfg ▸ hs.legal, step_framingInv h hs.framing, step_ringInv h hs.legal hs.ring, hconfig hs.config,
    step_prevInv h hs.prev⟩

/-- Settles O60, by induction on the run: reset meets the invariant, a step keeps it, and the host cannot touch it. -/
theorem reachableStatesMeetTheInvariant : Obligations.ReachableStatesMeetTheInvariant := by
  intro p s hp hreach
  induction hreach with
  | reset => exact ⟨rfl, resetWith_inv hp⟩
  | step _ hstep ih =>
    obtain ⟨hcfg, hinv⟩ := ih
    exact ⟨(stepKeepsConfiguration _ _ hstep).1.trans hcfg, step_inv hstep hinv⟩
  | host _ hact ih =>
    obtain ⟨hcfg, hinv⟩ := ih
    have hcore := sameCore_hostAction hact
    exact ⟨hcore.cfg_eq.trans hcfg, hinv.of_sameCore hcore⟩

end Sys2Proof.Machine
end

section
/-! The decoder said once, by mnemonic: which words select a row of the opcode map (spec/30_encoding.md R73), what `decode`
answers for each opcode (R74, R75, R77), and that it reads no operand bit outside `argMask` (R76). -/

namespace Sys2Proof

/-! ## The opcode map -/

/-- A row is selected by the top byte alone, which is its mnemonic's opcode. -/
theorem opRows_layout : ∀ r ∈ opRows, r.mask = 0xFF000000 ∧ r.pattern = mkWord r.mnemonic.opcode 0 := by decide

theorem opRows_opcode_inj : ∀ r ∈ opRows, ∀ r' ∈ opRows, r.mnemonic.opcode = r'.mnemonic.opcode → r = r' := by decide

theorem exists_opRow (m : Mnemonic) : ∃ r ∈ opRows, r.mnemonic = m := by
  cases m <;> decide

theorem mem_opRow_ports (port : Port) : ∀ r ∈ opRows, (port ∈ r.ports ↔ port = .P ∨ r.mnemonic = .DRAIN_TEXT) := by
  cases port <;> decide

theorem opcode_injective : Function.Injective Mnemonic.opcode := by
  intro m m' h
  obtain ⟨r, hr, rfl⟩ := exists_opRow m
  obtain ⟨r', hr', rfl⟩ := exists_opRow m'
  rw [opRows_opcode_inj r hr r' hr' h]

theorem mkWord_left_inj {op op' : BitVec 8} {arg : Arg} : mkWord op arg = mkWord op' arg ↔ op = op' :=
  ⟨fun h => by simpa only [opField_mkWord] using congrArg opField h, fun h => by rw [h]⟩

/-- The mask of the opcode map keeps `OP` and clears `ARG`. -/
theorem and_opMask (w : Word) : w &&& 0xFF000000 = mkWord (opField w) 0 := by
  have hmask : (0xFF000000 : Word) = BitVec.allOnes 8 ++ (0 : Arg) := by decide
  conv_lhs => rw [← mkWord_fields w, hmask, mkWord, BitVec.and_append, BitVec.and_allOnes]
  rw [show argField w &&& 0 = 0 from BitVec.and_zero, mkWord]

theorem selects_iff {r : OpRow} (hr : r ∈ opRows) (w : Word) : r.selects w = true ↔ opField w = r.mnemonic.opcode := by
  obtain ⟨hmask, hpattern⟩ := opRows_layout r hr
  rw [OpRow.selects, beq_iff_eq, hmask, hpattern, and_opMask, mkWord_left_inj]

/-! ## The decoder -/

/-- The command a mnemonic and an operand field stand for, on a port that accepts it (R73, R76). -/
def Mnemonic.toInstr (port : Port) (arg : Arg) : Mnemonic → Instr
  | .INIT => .init
  | .STEP => .step
  | .DRAIN_TEXT => .drainText port arg
  | .SET_BAUD => .setBaud arg
  | .SET_WINDOW => .setWindow arg
  | .SET_THRESHOLD => .setThreshold arg
  | .SET_DEBUG => .setDebug (arg.getLsbD 0)

@[simp] theorem toInstr_mnemonic (port : Port) (arg : Arg) (m : Mnemonic) : (m.toInstr port arg).mnemonic = m := by
  cases m <;> rfl

/-- A command depends on the operand bits of `argMask` only (R76). -/
theorem toInstr_and_argMask (port : Port) (arg : Arg) (m : Mnemonic) :
    m.toInstr port (arg &&& m.argMask) = m.toInstr port arg := by
  have hall : arg &&& 0xFFFFFF = arg := BitVec.and_allOnes
  cases m with
  | INIT | STEP => rfl
  | DRAIN_TEXT | SET_BAUD | SET_WINDOW | SET_THRESHOLD => simp only [Mnemonic.toInstr, Mnemonic.argMask, hall]
  | SET_DEBUG => simp [Mnemonic.toInstr, Mnemonic.argMask]

/-- A word with an opcode of the map is its command on a port that accepts it and `WrongPort` on the other (R75, R77). -/
theorem decode_of_opcode {w : Word} {m : Mnemonic} (h : opField w = m.opcode) (port : Port) :
    decode port w =
      if port = .P ∨ m = .DRAIN_TEXT then .ok (m.toInstr port (argField w)) else .error .wrongPort := by
  unfold decode
  rw [h]
  cases m <;> cases port <;> rfl

/-- An opcode outside the map is reserved on every port (R74; notes/assumptions/12.md). -/
theorem decode_of_no_opcode {w : Word} (h : ∀ m : Mnemonic, opField w ≠ m.opcode) (port : Port) :
    decode port w = .error .reservedOpcode := by
  have hne : ∀ m : Mnemonic, (opField w).toNat ≠ m.opcode.toNat := fun m e => h m (BitVec.eq_of_toNat_eq e)
  unfold decode
  split
  case h_1 e => exact absurd e (hne .INIT)
  case h_2 e => exact absurd e (hne .STEP)
  case h_3 e => exact absurd e (hne .DRAIN_TEXT)
  case h_4 e => exact absurd e (hne .SET_BAUD)
  case h_5 e => exact absurd e (hne .SET_WINDOW)
  case h_6 e => exact absurd e (hne .SET_THRESHOLD)
  case h_7 e => exact absurd e (hne .SET_DEBUG)
  case h_8 => rfl

/-- Words of one opcode that agree on the operand bits it reads decode alike (R76). -/
theorem decode_congr_argMask {w w' : Word} {m : Mnemonic} (hw : opField w = m.opcode) (hw' : opField w' = m.opcode)
    (harg : argField w &&& m.argMask = argField w' &&& m.argMask) (port : Port) : decode port w = decode port w' := by
  rw [decode_of_opcode hw, decode_of_opcode hw', ← toInstr_and_argMask port (argField w), harg, toInstr_and_argMask]

/-- Settles O4: selecting a row is having its mnemonic's opcode, and the decoder goes by the opcode. -/
theorem opcodeMapSelectsTheCommand : Obligations.OpcodeMapSelectsTheCommand := by
  intro w
  refine ⟨fun r hr r' hr' h h' => ?_, fun r hr h port => ?_, fun h port => ?_⟩
  · exact opRows_opcode_inj r hr r' hr' (((selects_iff hr w).1 h).symm.trans ((selects_iff hr' w).1 h'))
  · have hdec := decode_of_opcode ((selects_iff hr w).1 h) port
    rw [mem_opRow_ports port r hr]
    exact ⟨fun hport => ⟨_, hdec.trans (if_pos hport), toInstr_mnemonic _ _ _⟩, fun hport => hdec.trans (if_neg hport)⟩
  · refine decode_of_no_opcode (fun m hm => ?_) port
    obtain ⟨r, hr, rfl⟩ := exists_opRow m
    exact Bool.false_ne_true ((h r hr).symm.trans ((selects_iff hr w).2 hm))

/-! ## Canonical operands (R76) -/

theorem argField_encode (i : Instr) : argField (encode i) = i.arg := argField_mkWord _ _

/-- What the assembler answers: on the line's port, the opcode and the canonical operand its statement expands to (R79, R80). -/
theorem assemble_some {l : AsmLine} {port : Port} {w : Word} (h : l.assemble = some (port, w)) :
    l.wellFormed = true ∧ port = l.port ∧
      w = mkWord l.stmt.expand.1.opcode (canonicalArg l.stmt.expand.1 l.stmt.expand.2) := by
  unfold AsmLine.assemble at h
  split at h
  · next hwf =>
    simp only [Option.some.injEq, Prod.mk.injEq] at h
    obtain ⟨rfl, rfl⟩ := h
    exact ⟨hwf, rfl, rfl⟩
  · cases h

/-- An assembled word's operand field is canonical for the mnemonic its opcode names. -/
theorem assemble_argField {l : AsmLine} {port : Port} {w : Word} {m : Mnemonic} (h : l.assemble = some (port, w))
    (hw : opField w = m.opcode) : ∃ n, argField w = canonicalArg m n := by
  obtain ⟨-, -, rfl⟩ := assemble_some h
  rw [opField_mkWord] at hw
  obtain rfl := opcode_injective hw
  exact ⟨_, argField_mkWord _ _⟩

theorem assemble_argField_zero {l : AsmLine} {port : Port} {w : Word} {m : Mnemonic} (h : l.assemble = some (port, w))
    (hw : opField w = m.opcode) (hm : m.argMask = 0) : argField w = 0 := by
  obtain ⟨n, hn⟩ := assemble_argField h hw
  rw [hn, canonicalArg, hm]
  exact BitVec.and_zero

theorem and_setDebug_argMask (a : Arg) : a &&& Mnemonic.SET_DEBUG.argMask = (BitVec.ofBool (a.getLsbD 0)).setWidth 24 :=
  BitVec.and_one_eq_setWidth_ofBool_getLsbD

theorem canonicalArg_setDebug (n : Nat) : canonicalArg .SET_DEBUG n = 0 ∨ canonicalArg .SET_DEBUG n = 1 := by
  rw [canonicalArg, and_setDebug_argMask]
  cases (BitVec.ofNat 24 n).getLsbD 0
  · exact .inl rfl
  · exact .inr rfl

/-- Words alike but for the ignored bits of INIT, STEP and SET_DEBUG decode alike. -/
theorem decode_ignores {port : Port} {w w' : Word} (hop : opField w = opField w') :
    (opField w = 0x01 ∨ opField w = 0x02 → decode port w = decode port w') ∧
    (opField w = 0x13 → (argField w).getLsbD 0 = (argField w').getLsbD 0 → decode port w = decode port w') := by
  refine ⟨?_, fun hw hbit => ?_⟩
  · rintro (hw | hw)
    · exact decode_congr_argMask (m := .INIT) hw (hop ▸ hw) (BitVec.and_zero.trans BitVec.and_zero.symm) port
    · exact decode_congr_argMask (m := .STEP) hw (hop ▸ hw) (BitVec.and_zero.trans BitVec.and_zero.symm) port
  · refine decode_congr_argMask (m := .SET_DEBUG) hw (hop ▸ hw) ?_ port
    rw [and_setDebug_argMask, and_setDebug_argMask, hbit]

end Sys2Proof

namespace Sys2Proof.Machine

/-! ## What a step makes of the decoding -/

/-- A step's outcome depends on the word taken through its decoding only (R77, R214). -/
theorem step_congr_decode {s s' t : State} {port : Port} {w w' : Word} (h : takeCommand s = some (port, w, t))
    (h' : takeCommand s' = some (port, w', t)) (hdec : decode port w = decode port w') : step s = step s' := by
  simp only [step, h, h', hdec]

/-- A word the decoder refuses is refused by the step that takes it (R213). -/
theorem step_of_decode_error {s s' : State} {port : Port} {w : Word} {e : DecodeError}
    (h : takeCommand s = some (port, w, s')) (hdec : decode port w = .error e) : step s = refuse e := by
  simp only [step, h, hdec]

/-- Settles O5: the opcodes of R74 are those of no mnemonic, whatever the port. -/
theorem reservedOpcodeIsRefused : Obligations.ReservedOpcodeIsRefused := by
  intro s s' port w htake hop
  refine step_of_decode_error htake (decode_of_no_opcode (fun m hm => ?_) port)
  rw [hm] at hop
  revert hop
  cases m <;> decide

/-- Settles O7: the decoder reads the bits of `argMask` only, a step reads the word through the decoder only, and the encoder
and the assembler leave the other bits 0. -/
theorem ignoredBitsHaveNoEffect : Obligations.IgnoredBitsHaveNoEffect := by
  refine ⟨fun port w w' hop => decode_ignores hop, fun s s' t port w w' h h' hop => ?_, ?_, ?_, fun e => ?_,
    fun l port w h => ⟨?_, fun hw => ?_⟩⟩
  · obtain ⟨hinitStep, hdebug⟩ := decode_ignores (port := port) hop
    exact ⟨fun hw => step_congr_decode h h' (hinitStep hw), fun hw hbit => step_congr_decode h h' (hdebug hw hbit)⟩
  · exact argField_encode .init
  · exact argField_encode .step
  · rw [argField_encode]; cases e <;> rfl
  · rintro (hw | hw)
    · exact assemble_argField_zero (m := .INIT) h hw rfl
    · exact assemble_argField_zero (m := .STEP) h hw rfl
  · obtain ⟨n, hn⟩ := assemble_argField (m := .SET_DEBUG) h hw
    rw [hn]
    exact canonicalArg_setDebug n

end Sys2Proof.Machine
end

section
/-! The discriminator said once (spec/40_discriminator.md): the transition predicate and the class of a count, and the loop of R102
as a run of pulls followed by a count over `PREV` and the centred samples. -/

namespace Sys2Proof.Machine

/-! ## The transition predicate (R101) -/

theorem isTransition_iff {a b : Centred} :
    isTransition a b = true ↔ (a.toInt < 0 ∧ 0 ≤ b.toInt) ∨ (0 ≤ a.toInt ∧ b.toInt < 0) := by
  simp only [isTransition, Bool.or_eq_true, Bool.and_eq_true, decide_eq_true_eq]

theorem isTransition_comm (a b : Centred) : isTransition a b = isTransition b a := by
  rw [Bool.eq_iff_iff, isTransition_iff, isTransition_iff]
  tauto

theorem isTransition_self (a : Centred) : isTransition a a = false := by
  rw [← Bool.not_eq_true, isTransition_iff]
  omega

/-- Settles O24: the predicate is the sign change of R101, which neither depends on the order nor holds of one sample twice. -/
theorem transitionIsSignChange : Obligations.TransitionIsSignChange :=
  fun a b => ⟨isTransition_iff, isTransition_comm a b, isTransition_self a⟩

/-! ## The class of a count (R103) -/

theorem classify_of_lt {count : Nat} {thr : Arg} (h : count < thr.toNat) : classify count thr = .mark := if_pos h

theorem classify_of_le {count : Nat} {thr : Arg} (h : thr.toNat ≤ count) : classify count thr = .space :=
  if_neg (Nat.not_lt.2 h)

/-- Settles O25: the threshold itself is not below the threshold, and one less is. -/
theorem thresholdCountIsSpace : Obligations.ThresholdCountIsSpace :=
  fun _ _ => ⟨classify_of_lt, classify_of_le, classify_of_le le_rfl, fun h => classify_of_lt (Nat.sub_one_lt_of_lt h)⟩

/-! ## Centring (R100) -/

/-- Settles O23: the difference of two `u16` fits `s17`, and a sample of the width bounds it. -/
theorem centringIsExact : Obligations.CentringIsExact :=
  fun _ _ _ hx => ⟨centre_toInt, centre_bounds hx⟩

/-! ## The loop of R102 -/

@[simp] theorem pull_cfg (s : State) : (pull s).2.cfg = s.cfg := by rw [pull_state]

/-- The sample source does not read `PREV`, so writing `PREV` before a pull or after it is the same. -/
theorem pull_setPrev (s : State) (c : Centred) :
    pull { s with prev := c } = ((pull s).1, { (pull s).2 with prev := c }) := by
  cases h : s.samples <;> simp only [pull, h]

theorem pullMany_succ (n : Nat) (s : State) :
    pullMany (n + 1) s = ((pull s).1 :: (pullMany n (pull s).2).1, (pullMany n (pull s).2).2) := rfl

theorem pullMany_setPrev (n : Nat) (s : State) (c : Centred) :
    pullMany n { s with prev := c } = ((pullMany n s).1, { (pullMany n s).2 with prev := c }) := by
  induction n generalizing s with
  | zero => rfl
  | succ n ih => simp only [pullMany_succ, pull_setPrev, ih]

@[simp] theorem pullMany_length (n : Nat) (s : State) : (pullMany n s).1.length = n := by
  induction n generalizing s with
  | zero => rfl
  | succ n ih => simp only [pullMany_succ, List.length_cons, ih]

theorem transitions_le_length (prev : Centred) (cs : List Centred) : transitions prev cs ≤ cs.length := by
  induction cs generalizing prev with
  | nil => exact le_rfl
  | cons c cs ih =>
    have hrest : transitions c cs ≤ cs.length := ih c
    rw [transitions, List.length_cons]
    split <;> omega

/-- The centred samples of a window: what the next `n` pulls return, each less the midpoint (R100, R102). -/
def centredWindow (n : Nat) (s : State) : List Centred := (pullMany n s).1.map (centre s.cfg)

theorem centredWindow_length (n : Nat) (s : State) : (centredWindow n s).length = n := by
  rw [centredWindow, List.length_map, pullMany_length]

/-- One round of the loop: the first centred sample is compared with `PREV` and becomes it. -/
theorem windowLoop_succ (n count : Nat) (s : State) :
    windowLoop (n + 1) count s =
      windowLoop n (if isTransition s.prev (centre s.cfg (pull s).1) then count + 1 else count)
        { (pull s).2 with prev := centre s.cfg (pull s).1 } := rfl

theorem centredWindow_succ (n : Nat) (s : State) :
    centredWindow (n + 1) s = centre s.cfg (pull s).1 :: centredWindow n (pull s).2 := by
  rw [centredWindow, pullMany_succ, List.map_cons, centredWindow, pull_cfg]

theorem centredWindow_setPrev (n : Nat) (s : State) (c : Centred) :
    centredWindow n { s with prev := c } = centredWindow n s := by
  rw [centredWindow, pullMany_setPrev, centredWindow]

/-- The loop is `n` pulls, a count over `PREV` and the centred samples, and the last of these left in `PREV`. -/
theorem windowLoop_eq (n count : Nat) (s : State) :
    windowLoop n count s =
      (count + transitions s.prev (centredWindow n s),
       { (pullMany n s).2 with prev := (centredWindow n s).getLastD s.prev }) := by
  induction n generalizing count s with
  | zero => rfl
  | succ n ih =>
    rw [windowLoop_succ, ih, centredWindow_setPrev, pullMany_setPrev, centredWindow_succ, pullMany_succ, transitions,
      List.getLastD_cons]
    split <;> simp only [Nat.zero_add, Nat.add_assoc]

theorem windowLoop_count (n : Nat) (s : State) : (windowLoop n 0 s).1 = transitions s.prev (centredWindow n s) := by
  rw [windowLoop_eq, Nat.zero_add]

theorem windowLoop_count_le (n : Nat) (s : State) : (windowLoop n 0 s).1 ≤ n := by
  rw [windowLoop_count]
  exact (transitions_le_length _ _).trans_eq (centredWindow_length n s)

/-- Settles O28: the loop counts over one centred sample for each pull, the first compared with `PREV`. -/
theorem countLiesWithinTheWindow : Obligations.CountLiesWithinTheWindow :=
  fun s => ⟨windowLoop_count_le _ s, centredWindow_length _ s, windowLoop_count _ s⟩

/-! ## DISCRIMINATE -/

theorem discriminate_eq (s : State) :
    discriminate s =
      (classify (windowLoop s.win.toNat 0 s).1 s.thr, (windowLoop s.win.toNat 0 s).2) := rfl

/-- Settles O27: DISCRIMINATE classifies the count of its loop, and the loop is `WIN` pulls and a count. -/
theorem discriminateClassifiesTheWindow : Obligations.DiscriminateClassifiesTheWindow := by
  intro s w xs h
  rw [discriminate_eq, windowLoop_eq, centredWindow, h, Nat.zero_add]

/-- A window has too few comparisons to reach a threshold above `WIN` (R104, R106). -/
theorem discriminate_mark_of_win_lt_thr {s : State} (h : s.win.toNat < s.thr.toNat) : (discriminate s).1 = .mark := by
  rw [discriminate_eq]
  exact classify_of_lt ((windowLoop_count_le _ s).trans_lt h)

/-- SET_THRESHOLD takes any positive value, above `WIN` too (R194). -/
theorem exec_setThreshold_of_ne_zero {n : Arg} (hn : n ≠ 0) (s : State) :
    exec (.setThreshold n) s = .next ({ s with thr := n }.respond .P .ack) :=
  if_pos (decide_eq_true hn)

theorem exec_setThreshold_thr_ne_zero {n : Arg} {s t : State} (hs : s.thr ≠ 0) (h : exec (.setThreshold n) s = .next t) :
    t.thr ≠ 0 := by
  rw [exec_setThreshold_next h, respond_thr]
  split
  · exact hs
  · assumption

/-- Settles O29: the count stays within the window, any transition reaches the threshold 1, and SET_THRESHOLD takes every value
but 0. -/
theorem thresholdAboveWindowIsMark : Obligations.ThresholdAboveWindowIsMark := by
  intro s
  refine ⟨discriminate_mark_of_win_lt_thr, fun hthr hcount => ?_, fun n hn => ?_,
    fun n t hs h => exec_setThreshold_thr_ne_zero hs h, fun p hp => ne_zero_of_one_le_toNat hp.thr0_pos⟩
  · rw [discriminate_eq, hthr]
    exact classify_of_le hcount
  · have hne : n ≠ 0 := ne_zero_of_one_le_toNat (Nat.one_le_of_lt hn)
    exact ⟨_, exec_setThreshold_of_ne_zero hne s, respond_thr _ _ _, respond_win _ _ _⟩

end Sys2Proof.Machine
end

section
/-! One STEP in each framing state (spec/41_framing.md): the time predicates of R120 on the integers the times denote, what
the framing machine makes of a tone and a time in each of its states, and the STEP command as that transition on what it
observed. -/

namespace Sys2Proof.Machine

/-! ## The time predicates (R120) -/

theorem elapsed_toNat (a now : Time) : (elapsed a now).toNat = (now.toNat + 2 ^ 32 - a.toNat) % 2 ^ 32 := by
  have ha : a.toNat < 2 ^ 32 := a.isLt
  rw [elapsed, BitVec.toNat_sub, Nat.add_comm, ← Nat.add_sub_assoc ha.le]

theorem halfDone_iff {s : State} {now : Time} :
    halfDone s now = true ↔ s.halfp.toNat ≤ (elapsed s.tStart now).toNat :=
  decide_eq_true_iff

/-- An instant counts as passed for the half circle of clock values that starts at it. -/
theorem reached_iff {t now : Time} : reached t now = true ↔ (elapsed t now).toNat < 2 ^ 31 := by
  rw [reached, decide_eq_true_iff, ← elapsed, BitVec.toInt_pos_iff]
  omega

/-- Settles O30: `elapsed` is the subtraction of bit vectors, and the two predicates compare it. -/
theorem timePredicatesWrap : Obligations.TimePredicatesWrap :=
  ⟨elapsed_toNat, fun _ _ => halfDone_iff, fun t now => by rw [reached_iff, elapsed_toNat]⟩

/-! ## What a STEP observes leaves the framing machine as it was -/

section Observe
variable {s w : State} {tone : Tone} {now : Time} (ho : observe s = (tone, now, w))
include ho

theorem sameFraming_observe : SameFraming s w := by
  rw [observe_eq ho]; simp [SameFraming]

theorem observe_shift : w.shift = s.shift := by rw [observe_eq ho]

theorem observe_halfDone (t : Time) : halfDone w t = halfDone s t := by rw [observe_eq ho]; rfl

/-- A STEP after INIT answers `Ack` in the state the framing machine makes of the observed one (R121). -/
theorem exec_step_of_frameStep {t : State} (hi : s.initDone = true) (ht : frameStep tone now w = t) :
    exec .step s = .next (t.respond .P .ack) :=
  ht ▸ exec_step_eq hi ho

end Observe

/-! ## The transition of each framing state -/

section Transitions
variable {tone : Tone} {now : Time} {s : State}

theorem frameStep_of_idle (h : s.fstate = .idle) : frameStep tone now s = idleStep tone now s := by
  simp only [frameStep, h]

theorem frameStep_of_startConfirm (h : s.fstate = .startConfirm) : frameStep tone now s = startStep tone now s := by
  simp only [frameStep, h]

theorem frameStep_of_dataBits (h : s.fstate = .dataBits) : frameStep tone now s = dataStep tone now s := by
  simp only [frameStep, h]

theorem frameStep_of_stopBits (h : s.fstate = .stopBits) : frameStep tone now s = stopStep tone now s := by
  simp only [frameStep, h]

theorem startStep_early (h : halfDone s now = false) : startStep tone now s = s := if_neg (by simp [h])

theorem startStep_space (h : halfDone s now = true) : startStep .space now s = confirm s := if_pos h

theorem startStep_mark (h : halfDone s now = true) : startStep .mark now s = reject s := if_pos h

theorem dataStep_early (h : reached s.tNext now = false) : dataStep tone now s = s := if_neg (by simp [h])

theorem dataStep_due (h : reached s.tNext now = true) : dataStep tone now s = sampleBit tone s := if_pos h

theorem stopStep_early (h : reached s.tNext now = false) : stopStep tone now s = s := if_neg (by simp [h])

theorem stopStep_mark (h : reached s.tNext now = true) : stopStep .mark now s = stopValid s := if_pos h

theorem stopStep_space (h : reached s.tNext now = true) : stopStep .space now s = stopError s := if_pos h

theorem bitOf_eq (tone : Tone) : bitOf tone = if tone = .mark then 1#5 else 0#5 := by cases tone <;> rfl

/-- The fifth bit is the one sampled at `CNT = 4` (R129). -/
theorem cnt_succ_eq_five_iff (cnt : BitVec 3) : cnt + 1 = 5 ↔ cnt = 4 := by revert cnt; decide

/-- A valid stop bit, with the codec's answer named (R131). -/
theorem stopValid_of_decode {ch : Option Byte} {sh : ShiftState} (h : baudotDecode s.cfg s.acc s.shift = (ch, sh)) :
    stopValid s = { deliver ch { s with shift := sh } with acc := 0, cnt := 0, fstate := .idle } := by
  rw [stopValid, h]; rfl

end Transitions

/-! ## STEP in each framing state -/

/-- Settles O34: the observed state is still in Idle, and IDLE_STEP acts on the tone. -/
theorem idleStepWaitsForSpace : Obligations.IdleStepWaitsForSpace := by
  intro s w tone now hi hf ho
  obtain ⟨hfs, -⟩ := sameFraming_observe ho
  have hidle := frameStep_of_idle (tone := tone) (now := now) (hfs.trans hf)
  constructor
  · rintro rfl; exact exec_step_of_frameStep ho hi hidle
  · rintro rfl; exact exec_step_of_frameStep ho hi hidle

/-- Settles O35: the observed state is still in StartConfirm with the old start time and periods. -/
theorem startConfirmStepDecidesAtHalfBit : Obligations.StartConfirmStepDecidesAtHalfBit := by
  intro s w tone now hi hf ho
  obtain ⟨hfs, htStart, -⟩ := sameFraming_observe ho
  obtain ⟨-, -, hbitp, hhalfp, -⟩ := sameConfig_observe ho
  have hstart := frameStep_of_startConfirm (tone := tone) (now := now) (hfs.trans hf)
  rw [← observe_halfDone ho, ← htStart, ← hbitp, ← hhalfp]
  refine ⟨fun h => ?_, ?_, ?_⟩
  · exact exec_step_of_frameStep ho hi (hstart.trans (startStep_early h))
  · rintro h rfl; exact exec_step_of_frameStep ho hi (hstart.trans (startStep_space h))
  · rintro h rfl; exact exec_step_of_frameStep ho hi (hstart.trans (startStep_mark h))

/-- Settles O36: the observed state is still in DataBits with the old accumulator and schedule, and SAMPLE_BIT leads to
StopBits exactly at the fifth bit. -/
theorem dataBitsStepSamplesOneBit : Obligations.DataBitsStepSamplesOneBit := by
  intro s w tone now hi hf ho
  obtain ⟨hfs, -, htNext, hacc, hcnt⟩ := sameFraming_observe ho
  obtain ⟨-, -, hbitp, -⟩ := sameConfig_observe ho
  have hdata := frameStep_of_dataBits (tone := tone) (now := now) (hfs.trans hf)
  rw [← htNext, ← hacc, ← hcnt, ← hbitp]
  refine ⟨fun h => ?_, fun h _ => ?_⟩
  · exact exec_step_of_frameStep ho hi (hdata.trans (dataStep_early h))
  · apply exec_step_of_frameStep ho hi
    rw [hdata, dataStep_due h, sampleBit_state, bitOf_eq, hfs, hf]
    simp only [cnt_succ_eq_five_iff]

/-- Settles O37: the observed state is still in StopBits with the old accumulator, schedule and shift state, and the codec's
character, if any, is the one delivered. -/
theorem stopBitsStepDeliversOrDiscards : Obligations.StopBitsStepDeliversOrDiscards := by
  intro s w tone now hi hf ho
  obtain ⟨hfs, -, htNext, hacc, -⟩ := sameFraming_observe ho
  have hstop := frameStep_of_stopBits (tone := tone) (now := now) (hfs.trans hf)
  rw [← htNext, ← hacc, ← (sameConfig_observe ho).1, ← observe_shift ho]
  refine ⟨fun h => ?_, ?_, ?_⟩
  · exact exec_step_of_frameStep ho hi (hstop.trans (stopStep_early h))
  · rintro h rfl ch sh hdec
    have hvalid := hstop.trans ((stopStep_mark h).trans (stopValid_of_decode hdec))
    constructor
    · rintro c rfl; exact exec_step_of_frameStep ho hi hvalid
    · rintro rfl; exact exec_step_of_frameStep ho hi hvalid
  · rintro h rfl; exact exec_step_of_frameStep ho hi (hstop.trans (stopStep_space h))

end Sys2Proof.Machine
end

section
/-! The codec (spec/42_codec.md R150, R156): one equation for each kind of code; and where the framing machine and the commands
use it, which is the one place `SHIFT` changes (R155). -/

namespace Sys2Proof.Machine

/-! ## BAUDOT_DECODE -/

section Codec
variable {p : Params} {code : Code} {sh : ShiftState}

theorem baudotDecode_figsCode : baudotDecode p p.figsCode sh = (none, .figures) := if_pos rfl

theorem baudotDecode_ltrsCode (h : p.ltrsCode ≠ p.figsCode) : baudotDecode p p.ltrsCode sh = (none, .letters) :=
  (if_neg h).trans (if_pos rfl)

theorem baudotDecode_of_data (hf : code ≠ p.figsCode) (hl : code ≠ p.ltrsCode) :
    baudotDecode p code sh = (tableEntry p sh code, sh) :=
  (if_neg hf).trans (if_neg hl)

/-- Code 0 is unmapped in both tables (R5). -/
theorem tableEntry_zero (hp : p.Legal) : tableEntry p sh 0 = none := by
  cases sh with
  | letters => exact hp.ltrTable.1
  | figures => exact hp.figTable.1

/-- At legal parameters code 0 is no shift code, and it is unmapped. -/
theorem baudotDecode_zero (hp : p.Legal) : baudotDecode p 0 sh = (none, sh) := by
  have hf : 0 ≠ p.figsCode := fun h => by simpa [← h] using hp.figs_pos
  have hl : 0 ≠ p.ltrsCode := fun h => by simpa [← h] using hp.ltrs_pos
  rw [baudotDecode_of_data hf hl, tableEntry_zero hp]

/-- Only a shift code changes the shift state, and to its own (R155). -/
theorem isShiftCode_of_baudotDecode_shift_ne (h : (baudotDecode p code sh).2 ≠ sh) :
    (code = p.figsCode ∧ (baudotDecode p code sh).2 = .figures) ∨
    (code = p.ltrsCode ∧ (baudotDecode p code sh).2 = .letters) := by
  by_cases hf : code = p.figsCode
  · exact .inl ⟨hf, by rw [hf, baudotDecode_figsCode]⟩
  by_cases hl : code = p.ltrsCode
  · exact .inr ⟨hl, by rw [hl, baudotDecode_ltrsCode (hl ▸ hf)]⟩
  · exact absurd (by rw [baudotDecode_of_data hf hl]) h

end Codec

/-- Settles O39: one equation for each kind of code; the last clause is what the tables of R5 leave unmapped. -/
theorem codecFollowsTheTables : Obligations.CodecFollowsTheTables := by
  intro p code sh
  refine ⟨?_, ?_, fun hf hl => ?_, fun hf hl hne => ?_, fun hp => ?_⟩
  · rintro rfl; exact baudotDecode_figsCode
  · rintro hf rfl; exact baudotDecode_ltrsCode hf
  · exact ⟨baudotDecode_of_data hf hl, baudotDecode_of_data hf hl⟩
  · rw [baudotDecode_figsCode, baudotDecode_ltrsCode hne.symm]
    exact ⟨baudotDecode_of_data hf hl, baudotDecode_of_data hf hl⟩
  · exact ⟨baudotDecode_zero hp, fun h => baudotDecode_ne_zero hp h rfl⟩

/-! ## Where SHIFT changes -/

/-- Of the transitions only a valid stop bit writes SHIFT (R131). -/
theorem frameStep_eq_stopValid_of_shift_ne {tone : Tone} {now : Time} {s : State}
    (h : (frameStep tone now s).shift ≠ s.shift) :
    s.fstate = .stopBits ∧ reached s.tNext now = true ∧ tone = .mark ∧ frameStep tone now s = stopValid s := by
  rcases frameStep_cases tone now s with
    e | ⟨_, _, e⟩ | ⟨_, _, _, e⟩ | ⟨_, _, _, e⟩ | ⟨_, _, e⟩ | hvalid | ⟨_, _, _, e⟩
  · exact absurd (by rw [e]) h
  · exact absurd (by rw [e]) h
  · exact absurd (by rw [e]; rfl) h
  · exact absurd (by rw [e]; rfl) h
  · exact absurd (by rw [e, sampleBit_state]) h
  · exact hvalid
  · exact absurd (by rw [e]; rfl) h

/-- Of the commands only STEP writes SHIFT. -/
theorem exec_shift_of_ne_step {i : Instr} {s t : State} (h : exec i s = .next t) (hi : i ≠ .step) : t.shift = s.shift := by
  cases i with
  | init => rw [exec_init_next h, respond_shift, pullCentred_state]
  | step => exact absurd rfl hi
  | drainText p m => rw [exec_drainText_state h]
  | setBaud _ | setWindow _ | setThreshold _ | setDebug _ =>
    rw [exec_setter_state (by simp [IsSetter, Instr.mnemonic]) h]

/-- Settles O40: the command is STEP, its transition is the valid stop bit, and the codec met a shift code. -/
theorem onlyShiftCodesChangeShift : Obligations.OnlyShiftCodesChangeShift := by
  intro i s t h hne
  obtain rfl : i = .step := by
    by_contra hi
    exact hne (exec_shift_of_ne_step h hi)
  obtain ⟨tone, now, w, -, ho, rfl⟩ := exec_step_next h
  obtain ⟨hfs, -, htNext, hacc, -⟩ := sameFraming_observe ho
  rw [respond_shift] at hne ⊢
  rw [← observe_shift ho] at hne
  obtain ⟨hstop, hreached, rfl, hvalid⟩ := frameStep_eq_stopValid_of_shift_ne hne
  have hshift : (frameStep .mark now w).shift = (baudotDecode w.cfg w.acc w.shift).2 := by
    rw [hvalid, stopValid_state]
  rw [hshift] at hne ⊢
  rw [← hfs, ← htNext, ← hacc, ← (sameConfig_observe ho).1]
  exact ⟨rfl, hstop, ⟨now, w, ho, hreached⟩, isShiftCode_of_baudotDecode_shift_ne hne⟩

end Sys2Proof.Machine
end

section
/-! The ring as a queue (spec/43_ring.md): what a PUSH (R170), a DRAIN (R171) and a run of PUSHes (R173) make of the list of
unread characters, and DRAIN_TEXT's answer (R172). -/

namespace Sys2Proof.Machine

/-! ## The unread list -/

@[simp] theorem unread_length (s : State) : (unread s).length = avail s := ringFront_length _ _

/-- The ring is empty where the cursors meet (R38). -/
theorem avail_of_wptr_eq_rptr {s : State} (h : s.wptr = s.rptr) : avail s = 0 := by
  rw [avail, h, Int.sub_self, Int.zero_emod, Int.toNat_zero]

theorem unread_of_wptr_eq_rptr {s : State} (h : s.wptr = s.rptr) : unread s = [] :=
  List.eq_nil_of_length_eq_zero ((unread_length s).trans (avail_of_wptr_eq_rptr h))

/-- A state whose read cursor is `j` cells further on, and whose first `n` cells from the old one read as before, has lost the
first `j` of these characters. -/
theorem ringFront_of_advanced {s t : State} {j n : Nat}
    (hplus : ∀ k, cursorPlus t t.rptr k = cursorPlus s s.rptr (j + k))
    (hread : ∀ k < n, ringRead t (cursorPlus s s.rptr k) = ringRead s (cursorPlus s s.rptr k)) :
    ringFront t (n - j) = (ringFront s n).drop j := by
  rw [ringFront_drop, ringFront]
  refine List.map_congr_left fun k hk => ?_
  have hlt : j + k < n := Nat.add_lt_of_lt_sub' (List.mem_range.1 hk)
  rw [hplus, hread _ hlt]

/-! ## DRAIN (R171) -/

theorem drain_take (m : Nat) (s : State) : (drain m s).1 = (unread s).take m := by
  rw [drain_out, unread, ringFront_take]

theorem drain_out_length (m : Nat) (s : State) : (drain m s).1.length = min (avail s) m := by
  rw [drain_out, ringFront_length]

/-- A DRAIN that has nothing to return changes nothing. -/
theorem drain_of_min_eq_zero {s : State} {m : Nat} (hr : s.rptr.toNat < s.cfg.ringN) (h : min (avail s) m = 0) :
    drain m s = ([], s) := by
  have hcursor : BitVec.ofNat 16 (cursorPlus s s.rptr 0) = s.rptr := by
    rw [cursorPlus_of_lt hr, Nat.add_zero, BitVec.ofNat_toNat, BitVec.setWidth_eq]
  refine Prod.ext ?_ ?_
  · rw [drain_out, h]; rfl
  · rw [drain_state, h, hcursor]

section Drain
variable {s : State} (m : Nat) (hN : s.cfg.ringN ≤ 65536) (hw : s.wptr.toNat < s.cfg.ringN)
  (hr : s.rptr.toNat < s.cfg.ringN)
include hN hr

theorem drain_rptr_toNat : (drain m s).2.rptr.toNat = cursorPlus s s.rptr (min (avail s) m) :=
  cursor_toNat hN (cursorPlus_lt (by omega) _ _)

theorem cursorPlus_drain_rptr (k : Nat) :
    cursorPlus (drain m s).2 (drain m s).2.rptr k = cursorPlus s s.rptr (min (avail s) m + k) :=
  cursorPlus_add (drain_rptr_toNat m hN hr) k

include hw

theorem avail_drain : avail (drain m s).2 = avail s - min (avail s) m := by
  have hlt : avail s < s.cfg.ringN := avail_lt hw hr
  have hrptr : (drain m s).2.rptr.toNat < s.cfg.ringN :=
    (drain_rptr_toNat m hN hr).trans_lt (cursorPlus_lt (by omega) _ _)
  refine avail_unique hw hrptr (Nat.sub_lt_of_lt hlt) ?_
  rw [cursorPlus_drain_rptr m hN hr, Nat.add_sub_cancel' (Nat.min_le_left _ _)]
  exact cursorPlus_avail hw hr

/-- What a DRAIN leaves is unread still. -/
theorem unread_drain : unread (drain m s).2 = (unread s).drop m := by
  have hleft : unread (drain m s).2 = (unread s).drop (min (avail s) m) := by
    rw [unread, avail_drain m hN hw hr]
    exact ringFront_of_advanced (cursorPlus_drain_rptr m hN hr) fun _ _ => rfl
  rw [hleft, List.drop_eq_drop_iff, unread_length]
  omega

end Drain

/-- Settles O42: a DRAIN reads the front of the unread list and moves the read cursor past it. -/
theorem drainTakesFromTheFront : Obligations.DrainTakesFromTheFront := by
  intro m s _ hN hw hr
  refine ⟨drain_take m s, unread_drain m hN hw hr, drain_state m s, avail_eq hw hr, fun h => drain_of_min_eq_zero hr ?_⟩
  rcases h with rfl | h
  · exact Nat.min_zero _
  · rw [avail_of_wptr_eq_rptr h, Nat.zero_min]

/-! ## PUSH (R170) -/

theorem push_read_wptr (c : Byte) (s : State) : (push c s).rbuf.read s.wptr.toNat = some c := by
  rw [push_rbuf, pushIndex, read_write_same]

theorem push_read_other (c : Byte) {s : State} {a : Nat} (h : a ≠ s.wptr.toNat) :
    (push c s).rbuf.read a = s.rbuf.read a := by
  rw [push_rbuf, pushIndex, read_write_other _ _ h]

/-- A PUSH drops a character exactly where `P_RING_N - 1` are unread. -/
theorem pushDrops_eq {s : State} (h2 : 2 ≤ s.cfg.ringN) :
    pushDrops s = if avail s = s.cfg.ringN - 1 then 1 else 0 := by
  have hfull : avail s + 1 = s.cfg.ringN ↔ avail s = s.cfg.ringN - 1 := by omega
  simp only [pushDrops, hfull]

/-- The character a PUSH drops is an unread one: a ring of two cells or more is not full while empty. -/
theorem pushDrops_le_avail {s : State} (h2 : 2 ≤ s.cfg.ringN) : pushDrops s ≤ avail s := by
  rw [pushDrops_eq h2]; split <;> omega

section Push
variable {s : State} (c : Byte) (h2 : 2 ≤ s.cfg.ringN) (hN : s.cfg.ringN ≤ 65536) (hw : s.wptr.toNat < s.cfg.ringN)
  (hr : s.rptr.toNat < s.cfg.ringN)
include hw hr

/-- The cell a PUSH writes holds no unread character, so those read as before. -/
theorem push_ringRead_unread {k : Nat} (hk : k < avail s) :
    ringRead (push c s) (cursorPlus s s.rptr k) = ringRead s (cursorPlus s s.rptr k) := by
  have hlt : avail s < s.cfg.ringN := avail_lt hw hr
  have hcell : cursorPlus s s.rptr k ≠ s.wptr.toNat := by
    rw [← cursorPlus_avail hw hr]
    exact fun h => hk.ne (cursorPlus_inj hr (hk.trans hlt) hlt h)
  rw [ringRead, push_read_other c hcell, ringRead]

include hN

theorem push_wptr_lt : (push c s).wptr.toNat < (push c s).cfg.ringN := by
  rw [push_wptr_toNat c hN hw, push_cfg]
  exact cursorPlus_lt (by omega) _ _

theorem push_rptr_lt : (push c s).rptr.toNat < (push c s).cfg.ringN := by
  rw [push_rptr_toNat c hN hw hr, push_cfg]
  exact cursorPlus_lt (by omega) _ _

include h2

/-- On the unread list a PUSH drops from the front and appends its character. -/
theorem unread_push : unread (push c s) = (unread s).drop (pushDrops s) ++ [c] := by
  have hdrops : pushDrops s ≤ avail s := pushDrops_le_avail h2
  have hkept : ringFront (push c s) (avail s - pushDrops s) = (unread s).drop (pushDrops s) :=
    ringFront_of_advanced (cursorPlus_push_rptr c hN hw hr) fun _ hk => push_ringRead_unread c hw hr hk
  have hlast : ringRead (push c s) (cursorPlus (push c s) (push c s).rptr (avail s - pushDrops s)) = c := by
    rw [cursorPlus_push_rptr c hN hw hr, Nat.add_sub_cancel' hdrops, cursorPlus_avail hw hr, ringRead, push_read_wptr,
      Option.getD_some]
  rw [unread, avail_push c hN hw hr, Nat.sub_add_comm hdrops, ringFront_succ, hkept, hlast]

end Push

/-- Settles O41: a PUSH drops the front of a full unread list, appends its character and writes the cell at `WPTR`. -/
theorem pushAppendsAndDropsOldest : Obligations.PushAppendsAndDropsOldest := by
  intro c s h2 hN hw hr
  refine ⟨?_, push_wptr_toNat c hN hw, ?_, ?_, push_read_wptr c s, fun a ha => push_read_other c ha, ?_⟩
  · rw [unread_push c h2 hN hw hr, pushDrops_eq h2, unread_length]
    split
    · rw [List.drop_one]
    · rw [List.drop_zero]
  · rw [push_rptr_toNat c hN hw hr, pushDrops_eq h2, unread_length]
    split
    · rfl
    · exact cursorPlus_of_lt hr
  · have hlt : avail (push c s) < (push c s).cfg.ringN :=
      avail_lt (push_wptr_lt c hN hw hr) (push_rptr_lt c hN hw hr)
    rw [push_cfg] at hlt
    rw [unread_length]
    exact Nat.le_sub_one_of_lt hlt
  · rw [push_state]

/-! ## Several PUSHes (R173) -/

theorem pushAll_cons (c : Byte) (cs : List Byte) (s : State) : pushAll (c :: cs) s = pushAll cs (push c s) := rfl

/-- Of the characters unread before and those pushed, the newest `P_RING_N - 1` stay. -/
theorem unread_pushAll (cs : List Byte) {s : State} (h2 : 2 ≤ s.cfg.ringN) (hN : s.cfg.ringN ≤ 65536)
    (hw : s.wptr.toNat < s.cfg.ringN) (hr : s.rptr.toNat < s.cfg.ringN) :
    unread (pushAll cs s) = (unread s ++ cs).drop (avail s + cs.length - (s.cfg.ringN - 1)) := by
  have hlt : avail s < s.cfg.ringN := avail_lt hw hr
  induction cs generalizing s with
  | nil => rw [List.append_nil, List.length_nil, Nat.sub_eq_zero_of_le (by omega), List.drop_zero]; rfl
  | cons c cs ih =>
    have hcfg : (push c s).cfg = s.cfg := push_cfg c s
    have hw' := push_wptr_lt c hN hw hr
    have hr' := push_rptr_lt c hN hw hr
    have hdrops : pushDrops s ≤ (unread s).length := (pushDrops_le_avail h2).trans_eq (unread_length s).symm
    have hcount : pushDrops s + (avail s + 1 - pushDrops s + cs.length - (s.cfg.ringN - 1)) =
        avail s + (cs.length + 1) - (s.cfg.ringN - 1) := by
      rw [pushDrops_eq h2]; split <;> omega
    calc unread (pushAll (c :: cs) s)
        = (unread (push c s) ++ cs).drop (avail (push c s) + cs.length - (s.cfg.ringN - 1)) := by
          rw [pushAll_cons, ih (hcfg ▸ h2) (hcfg ▸ hN) hw' hr' (avail_lt hw' hr'), hcfg]
      _ = ((unread s ++ c :: cs).drop (pushDrops s)).drop
            (avail s + 1 - pushDrops s + cs.length - (s.cfg.ringN - 1)) := by
          rw [unread_push c h2 hN hw hr, avail_push c hN hw hr, List.drop_append_of_le_length hdrops,
            List.append_assoc, List.singleton_append]
      _ = (unread s ++ c :: cs).drop (avail s + (c :: cs).length - (s.cfg.ringN - 1)) := by
          rw [List.drop_drop, hcount, List.length_cons]

/-- Settles O45: the newest characters stay, and a DRAIN of as many takes them all. -/
theorem overflowKeepsTheNewest : Obligations.OverflowKeepsTheNewest := by
  intro s cs h2 hN hw hempty m hm
  have hkept : unread (pushAll cs s) = cs.drop (cs.length - (s.cfg.ringN - 1)) := by
    rw [unread_pushAll cs h2 hN hw (hempty ▸ hw), unread_of_wptr_eq_rptr hempty, avail_of_wptr_eq_rptr hempty,
      List.nil_append, Nat.zero_add]
  have hout : (drain m (pushAll cs s)).1 = cs.drop (cs.length - (s.cfg.ringN - 1)) := by
    rw [drain_take, hkept, List.take_of_length_le]
    rw [List.length_drop]; omega
  refine ⟨hout, fun hlen => ?_⟩
  have hsix : cs.length - (s.cfg.ringN - 1) = 6 := by omega
  rw [hout, hsix, List.length_drop]
  exact ⟨rfl, by omega⟩

/-! ## DRAIN_TEXT (R172) -/

theorem exec_drainText_zero (port : Port) (s : State) :
    exec (.drainText port 0) s = .next (s.respond port (.text 0 [])) := rfl

theorem exec_drainText_of_ne_zero {port : Port} {maxLen : Arg} (h : maxLen ≠ 0) (s : State) :
    exec (.drainText port maxLen) s = .next ((drain (drainLimit maxLen) s).2.respond port
      (.text (BitVec.ofNat 24 (drain (drainLimit maxLen) s).1.length) ((drain (drainLimit maxLen) s).1 ++ [0]))) :=
  if_neg h

/-- The number of characters drained fits the response's `count`. -/
theorem drain_count_toNat (maxLen : Arg) (s : State) :
    (BitVec.ofNat 24 (drain (drainLimit maxLen) s).1.length).toNat = (drain (drainLimit maxLen) s).1.length := by
  have hlen := drain_out_length (drainLimit maxLen) s
  have hmax : maxLen.toNat < 2 ^ 24 := maxLen.isLt
  rw [BitVec.toNat_ofNat, Nat.mod_eq_of_lt]
  unfold drainLimit at hlen ⊢
  omega

/-- Settles O43: the decoder goes by the opcode, and the operand decides between the empty answer and a DRAIN. -/
theorem drainTextReturnsTextAndTerminator : Obligations.DrainTextReturnsTextAndTerminator := by
  intro port maxLen s
  refine ⟨?_, ?_, fun hne out s' hdrain => ?_⟩
  · have hop : opField (mkWord 0x03 maxLen) = Mnemonic.DRAIN_TEXT.opcode := opField_mkWord _ _
    rw [decode_of_opcode hop, if_pos (.inr rfl), argField_mkWord, Mnemonic.toInstr]
  · rintro rfl; exact exec_drainText_zero port s
  · obtain ⟨rfl, rfl⟩ := Prod.ext_iff.1 hdrain
    exact ⟨drain_out_length _ s, drain_count_toNat maxLen s, exec_drainText_of_ne_zero hne s⟩

end Sys2Proof.Machine
end

section
/-! INIT and the setters said once (spec/44_control.md): the words of the producer's commands, the bit-period function of R191 on
the integers, and what each command answers for an operand of 0 and for a positive one (R190, R192 to R194). -/

namespace Sys2Proof.Machine

/-! ## The producer's words (R73, R77) -/

/-- Port P accepts every opcode of the map, so its words decode to the command their fields spell (R71). -/
theorem decode_P_mkWord (m : Mnemonic) (arg : Arg) : decode .P (mkWord m.opcode arg) = .ok (m.toInstr .P arg) := by
  rw [decode_of_opcode (opField_mkWord _ _), if_pos (.inl rfl), argField_mkWord]

/-! ## The bit-period function (R191) -/

section BitPeriod
variable {b : Arg} (hb : b ≠ 0)
include hb

theorem bitp_quotient_le : (2 * 10 ^ 8 + b.toNat) / (2 * b.toNat) ≤ 10 ^ 8 := by
  have hpos : 0 < b.toNat := BitVec.toNat_pos_of_ne_zero hb
  exact Nat.le_of_lt_succ ((Nat.div_lt_iff_lt_mul (by omega)).2 (by omega))

theorem six_le_bitp_quotient : 6 ≤ (2 * 10 ^ 8 + b.toNat) / (2 * b.toNat) := by
  have hpos : 0 < b.toNat := BitVec.toNat_pos_of_ne_zero hb
  have hmax : b.toNat < 2 ^ 24 := b.isLt
  exact (Nat.le_div_iff_mul_le (by omega)).2 (by omega)

/-- The quotient fits the register, so nothing is cut off. -/
theorem bitp_toNat : (bitp b).toNat = (2 * 10 ^ 8 + b.toNat) / (2 * b.toNat) := by
  have hle := bitp_quotient_le hb
  rw [bitp, BitVec.toNat_ofNat, Nat.mod_eq_of_lt (by omega)]

end BitPeriod

theorem halfPeriod_toNat (t : Time) : (halfPeriod t).toNat = t.toNat / 2 := by
  have hlt := t.isLt
  rw [halfPeriod, BitVec.toNat_ofNat, Nat.mod_eq_of_lt (by omega)]

/-- Settles O17: the period is the quotient `q` of R191, and `q * 2b <= 2 * 10^8 + b < (q + 1) * 2b` says that it is the nearest
whole number to `10^8 / b`, ties up. -/
theorem bitPeriodRoundsToNearest : Obligations.BitPeriodRoundsToNearest := by
  intro b hb
  have hpos : 0 < 2 * b.toNat := Nat.mul_pos two_pos (BitVec.toNat_pos_of_ne_zero hb)
  have hbelow := Nat.mul_div_le (2 * 10 ^ 8 + b.toNat) (2 * b.toNat)
  have habove := Nat.lt_mul_div_succ (2 * 10 ^ 8 + b.toNat) hpos
  rw [Nat.mul_add_one] at habove
  rw [halfPeriod_toNat, bitp_toNat hb]
  exact ⟨rfl, six_le_bitp_quotient hb, bitp_quotient_le hb, hbelow, by omega, rfl⟩

/-! ## INIT (R190) -/

theorem exec_init_eq (s : State) :
    exec .init s = .next ({ (pull s).2 with
      prev := centre s.cfg (pull s).1, fstate := .idle, acc := 0, cnt := 0, tStart := 0, tNext := 0,
      initDone := true }.respond .P .ack) := rfl

/-- Settles O15: the word is INIT's, and INIT looks at no register before it writes. -/
theorem initTakesReferenceAndClears : Obligations.InitTakesReferenceAndClears := by
  refine ⟨decode_P_mkWord .INIT, fun s s' x hpull => ?_⟩
  rw [exec_init_eq, hpull]

/-! ## The setters (R192 to R194, R196) -/

theorem exec_setBaud_zero (s : State) : exec (.setBaud 0) s = .next (s.respond .P .ack) := rfl

theorem exec_setBaud_of_ne_zero {rate : Arg} (h : rate ≠ 0) (s : State) :
    exec (.setBaud rate) s =
      .next ({ s with baud := rate, bitp := bitp rate, halfp := halfPeriod (bitp rate) }.respond .P .ack) :=
  if_pos (decide_eq_true h)

theorem exec_setWindow_zero (s : State) : exec (.setWindow 0) s = .next (s.respond .P .ack) := rfl

theorem exec_setWindow_of_ne_zero {n : Arg} (h : n ≠ 0) (s : State) :
    exec (.setWindow n) s = .next ({ s with win := n }.respond .P .ack) :=
  if_pos (decide_eq_true h)

theorem exec_setThreshold_zero (s : State) : exec (.setThreshold 0) s = .next (s.respond .P .ack) := rfl

/-- A threshold above `WIN` is positive, so it is written, and no window reaches it (R194). -/
theorem discriminate_mark_of_setThreshold {n : Arg} {s t : State} (h : exec (.setThreshold n) s = .next t)
    (hlt : s.win.toNat < n.toNat) : (discriminate t).1 = .mark := by
  have hn : n ≠ 0 := ne_zero_of_one_le_toNat (Nat.one_le_of_lt hlt)
  rw [exec_setThreshold_of_ne_zero hn, Host.Outcome.next.injEq] at h
  subst h
  apply discriminate_mark_of_win_lt_thr
  rwa [respond_win, respond_thr]

/-- Settles O18: the decoder goes by the opcode, and the operand decides between the writes and the bare answer. -/
theorem setBaudWritesRateAndPeriods : Obligations.SetBaudWritesRateAndPeriods :=
  fun rate s => ⟨decode_P_mkWord .SET_BAUD rate, fun h => exec_setBaud_of_ne_zero h s,
    fun h => h ▸ exec_setBaud_zero s⟩

/-- Settles O19: the setter as in O18; a window below the threshold has too few comparisons to reach it, whatever set it. -/
theorem setWindowWritesWindow : Obligations.SetWindowWritesWindow :=
  fun n s => ⟨decode_P_mkWord .SET_WINDOW n, fun h => exec_setWindow_of_ne_zero h s,
    fun h => h ▸ exec_setWindow_zero s, fun _ _ => discriminate_mark_of_win_lt_thr⟩

/-- Settles O20: the setter as in O18, and `discriminate_mark_of_setThreshold` for a value above `WIN`. -/
theorem setThresholdWritesThreshold : Obligations.SetThresholdWritesThreshold :=
  fun n s => ⟨decode_P_mkWord .SET_THRESHOLD n, fun h => exec_setThreshold_of_ne_zero h s,
    fun h => h ▸ exec_setThreshold_zero s, fun _ => discriminate_mark_of_setThreshold⟩

end Sys2Proof.Machine
end

section
/-! STEP's one condition, `INIT_DONE` (spec/41_framing.md R121, R212). -/

namespace Sys2Proof.Machine

/-- Settles O32: the word is STEP's, and `INIT_DONE` decides between the transition on what is observed and the fault. -/
theorem stepCompletesExactlyAfterInit : Obligations.StepCompletesExactlyAfterInit :=
  ⟨decode_P_mkWord .STEP, fun _ =>
    ⟨fun hinit => ⟨_, _, _, rfl, exec_step_eq hinit rfl⟩, exec_step_of_not_initDone⟩⟩

end Sys2Proof.Machine
end

section
/-! Encoding and decoding undo each other, and the assembler's lines give canonical words (spec/30_encoding.md R70 to R80). -/

namespace Sys2Proof

/-! ## The round trips (R73, R76, R77) -/

theorem wellFormedOn_iff {port : Port} {i : Instr} : i.wellFormedOn port = true ↔ i.port = port := beq_iff_eq

/-- Port C accepts DRAIN_TEXT only (R71, R75). -/
theorem wellFormedOn_toInstr {port : Port} {m : Mnemonic} (arg : Arg) (h : port = .P ∨ m = .DRAIN_TEXT) :
    (m.toInstr port arg).wellFormedOn port = true := by
  rw [wellFormedOn_iff]
  rcases h with rfl | rfl
  · cases m <;> rfl
  · rfl

/-- The canonical operand of a decoded command is the operand field without the bits it does not read (R76). -/
theorem toInstr_arg (port : Port) (arg : Arg) (m : Mnemonic) : (m.toInstr port arg).arg = arg &&& m.argMask := by
  have hall : arg &&& 0xFFFFFF = arg := BitVec.and_allOnes
  cases m with
  | INIT | STEP => exact BitVec.and_zero.symm
  | DRAIN_TEXT | SET_BAUD | SET_WINDOW | SET_THRESHOLD => exact hall.symm
  | SET_DEBUG => exact (and_setDebug_argMask arg).symm

theorem encode_toInstr (port : Port) (arg : Arg) (m : Mnemonic) :
    encode (m.toInstr port arg) = mkWord m.opcode (arg &&& m.argMask) := by
  rw [encode, toInstr_mnemonic, toInstr_arg]

/-- A well-formed command is the one its mnemonic and its canonical operand stand for. -/
theorem toInstr_mnemonic_arg {port : Port} {i : Instr} (h : i.wellFormedOn port = true) :
    i.mnemonic.toInstr port i.arg = i := by
  obtain rfl := wellFormedOn_iff.1 h
  cases i with
  | setDebug e => cases e <;> rfl
  | init | step | drainText | setBaud | setWindow | setThreshold => rfl

/-- A well-formed command stands on port P or is DRAIN_TEXT. -/
theorem accepted_of_wellFormedOn {port : Port} {i : Instr} (h : i.wellFormedOn port = true) :
    port = .P ∨ i.mnemonic = .DRAIN_TEXT := by
  obtain rfl := wellFormedOn_iff.1 h
  cases i with
  | drainText => exact .inr rfl
  | init | step | setBaud | setWindow | setThreshold | setDebug => exact .inl rfl

theorem decode_encode {port : Port} {i : Instr} (h : i.wellFormedOn port = true) : decode port (encode i) = .ok i := by
  have hop : opField (encode i) = i.mnemonic.opcode := opField_mkWord _ _
  rw [decode_of_opcode hop, if_pos (accepted_of_wellFormedOn h), argField_encode, toInstr_mnemonic_arg h]

/-- Every way the decoder answers a command: the opcode is a mnemonic's, and the port accepts it (R77). -/
theorem decode_ok {port : Port} {w : Word} {i : Instr} (h : decode port w = .ok i) :
    ∃ m : Mnemonic, opField w = m.opcode ∧ (port = .P ∨ m = .DRAIN_TEXT) ∧ i = m.toInstr port (argField w) := by
  by_cases hop : ∃ m : Mnemonic, opField w = m.opcode
  · obtain ⟨m, hm⟩ := hop
    rw [decode_of_opcode hm] at h
    split at h
    · next haccepted => exact ⟨m, hm, haccepted, (Except.ok.inj h).symm⟩
    · cases h
  · rw [decode_of_no_opcode (not_exists.1 hop)] at h
    cases h

theorem wellFormedOn_of_decode {port : Port} {w : Word} {i : Instr} (h : decode port w = .ok i) :
    i.wellFormedOn port = true := by
  obtain ⟨m, -, haccepted, rfl⟩ := decode_ok h
  exact wellFormedOn_toInstr _ haccepted

/-- Settles O2: the encoder writes the fields the decoder reads, the decoder answers well-formed commands only, and the bytes
carry the word. -/
theorem decodeInvertsEncode : Obligations.DecodeInvertsEncode := by
  refine fun port i => ⟨⟨wellFormedOn_of_decode, decode_encode⟩, fun h => ?_⟩
  rw [decodeBytes, wordOfBytes_wordBytes, Option.map_some, decode_encode h]

/-- Settles O3: a decoded word's opcode is its command's, and the command's operand is what `argMask` keeps of the field. -/
theorem encodeInvertsDecode : Obligations.EncodeInvertsDecode := by
  intro port w i h
  refine ⟨wellFormedOn_of_decode h, ?_⟩
  obtain ⟨m, hop, -, rfl⟩ := decode_ok h
  rw [encode_toInstr, hop, toInstr_mnemonic]

/-- Settles O1: the opcode of each word is a row of R73, and its operand field is read as that row says. -/
theorem writtenWordsDecode : Obligations.WrittenWordsDecode :=
  ⟨rfl, rfl, rfl, rfl, rfl, rfl, rfl, rfl, rfl⟩

/-- A word is the weighted sum of its bytes (R57). -/
theorem word_toNat_bytes (w : Word) :
    w.toNat = (w.extractLsb' 0 8).toNat + 2 ^ 8 * (w.extractLsb' 8 8).toNat + 2 ^ 16 * (w.extractLsb' 16 8).toNat +
      2 ^ 24 * (w.extractLsb' 24 8).toNat := by
  have hlt := w.isLt
  simp only [BitVec.extractLsb'_toNat, Nat.shiftRight_eq_div_pow]
  omega

/-- Settles O10: the bytes are the word's digits in base 256. -/
theorem wordBytesAreLittleEndian : Obligations.WordBytesAreLittleEndian :=
  fun w => ⟨_, _, _, _, rfl, word_toNat_bytes w, wordOfBytes_wordBytes w⟩

/-! ## Assembler lines (R79, R80) -/

theorem assemble_of_wellFormed {l : AsmLine} (h : l.wellFormed = true) :
    l.assemble = some (l.port, mkWord l.stmt.expand.1.opcode (canonicalArg l.stmt.expand.1 l.stmt.expand.2)) :=
  if_pos h

/-- The assembled word is the encoding of the command the statement expands to. -/
theorem assemble_eq_encode {l : AsmLine} (h : l.wellFormed = true) (port : Port) :
    l.assemble = some (l.port, encode (l.stmt.expand.1.toInstr port (BitVec.ofNat 24 l.stmt.expand.2))) := by
  rw [assemble_of_wellFormed h, encode_toInstr, canonicalArg]

/-- An annotation is never required (R79). -/
theorem wellFormed_without_note {l : AsmLine} (h : l.wellFormed = true) :
    AsmLine.wellFormed { l with note := none } = true := by
  rw [AsmLine.wellFormed, Bool.and_eq_true] at h ⊢
  exact ⟨h.1, rfl⟩

/-- A line without an annotation assembles when its statement is well formed. -/
theorem assemble_stmt (port : Port) {stmt : AsmStmt} (h : stmt.wellFormed = true) :
    AsmLine.assemble ⟨port, stmt, none⟩ =
      some (port, encode (stmt.expand.1.toInstr port (BitVec.ofNat 24 stmt.expand.2))) := by
  refine assemble_eq_encode ?_ port
  rw [AsmLine.wellFormed, h]; rfl

end Sys2Proof

namespace Sys2Proof.Machine

theorem issueLine_of_assemble {l : AsmLine} {w : Word} (h : l.assemble = some (l.port, w)) (s : State)
    (windows : List (List Char × List Sample)) :
    s.issueLine windows l = some (s.issueWith l.port w (noteInputs windows l.note)) := by
  rw [State.issueLine, h]; rfl

/-- Settles O8: the assembler writes the canonical word of what the statement expands to, on the line's port, and `issueLine`
adds the inputs the annotation names. -/
theorem assembledLineIsItsCommand : Obligations.AssembledLineIsItsCommand := by
  refine ⟨fun l h => ?_, fun l h => ?_, fun l h => ?_, fun s windows l w h => ⟨fun hnote => ?_, ?_⟩⟩
  · refine ⟨_, _, assemble_eq_encode h .P, decode_encode (wellFormedOn_toInstr _ (.inl rfl)), rfl, ?_, ?_⟩
    · exact toInstr_mnemonic _ _ _
    · exact toInstr_arg _ _ _
  · exact if_neg (by simp [h])
  · rw [assemble_of_wellFormed h, assemble_of_wellFormed (wellFormed_without_note h)]
  · rw [issueLine_of_assemble h, hnote]; rfl
  · rintro t name xs hnote rfl
    rw [issueLine_of_assemble h, hnote]; rfl

/-! ## Refusals on port C (R75) -/

/-- The opcodes of the map but DRAIN_TEXT's. -/
theorem exists_producer_mnemonic {op : BitVec 8} (h : op ∈ [0x01, 0x02, 0x10, 0x11, 0x12, 0x13]) :
    ∃ m : Mnemonic, op = m.opcode ∧ m ≠ .DRAIN_TEXT := by
  simp only [List.mem_cons, List.not_mem_nil, or_false] at h
  rcases h with rfl | rfl | rfl | rfl | rfl | rfl
  · exact ⟨.INIT, by decide⟩
  · exact ⟨.STEP, by decide⟩
  · exact ⟨.SET_BAUD, by decide⟩
  · exact ⟨.SET_WINDOW, by decide⟩
  · exact ⟨.SET_THRESHOLD, by decide⟩
  · exact ⟨.SET_DEBUG, by decide⟩

theorem decode_C_of_ne_drainText {w : Word} {m : Mnemonic} (hop : opField w = m.opcode) (hm : m ≠ .DRAIN_TEXT) :
    decode .C w = .error .wrongPort := by
  rw [decode_of_opcode hop, if_neg]
  rintro (h | h)
  · cases h
  · exact hm h

/-- Settles O6: the decoder answers `WrongPort`, and a step refuses what the decoder does before it looks at the state. -/
theorem consumerPortTakesOnlyDrainText : Obligations.ConsumerPortTakesOnlyDrainText := by
  intro s s' w htake hop
  obtain ⟨m, hm, hne⟩ := exists_producer_mnemonic hop
  exact step_of_decode_error htake (decode_C_of_ne_drainText hm hne)

end Sys2Proof.Machine
end

section
/-! Reset (spec/70_reset_and_hazards.md R231) and the step lemmas of the invariants of spec/10_state.md R40. -/

namespace Sys2Proof.Machine

/-! ## One step -/

/-- Settles O56: nothing around the core touches the framing registers, and every command keeps their invariant
(`exec_framingInv`). -/
theorem stepKeepsFramingInvariant : Obligations.StepKeepsFramingInvariant :=
  fun _ _ hs h => step_framingInv h hs

/-- Settles O57: nothing around the core touches the ring, and every command keeps its invariant (`exec_ringInv`). -/
theorem stepKeepsRingInvariant : Obligations.StepKeepsRingInvariant :=
  fun _ _ hp hs h => step_ringInv h hp hs

/-- Settles O59: only INIT and STEP write `PREV`, and what they write is a centred sample (`exec_prevInv`). -/
theorem stepKeepsPrevCentred : Obligations.StepKeepsPrevCentred :=
  fun _ _ hs h => step_prevInv h hs

/-! ## Reset -/

/-- The open window size is any value from 1 to 2^24-1 (R5). -/
theorem openWin0_toNat : openWin0.toNat = Config.openWin.val + 1 := by
  have hlt := Config.openWin.isLt
  rw [openWin0, BitVec.toNat_ofNat, Nat.mod_eq_of_lt (by omega)]

/-- The open threshold is any value from 1 to the open window size (R5). -/
theorem openThr0_toNat : openThr0.toNat = Config.openThr % (Config.openWin.val + 1) + 1 := by
  have hlt := Config.openWin.isLt
  have hmod : Config.openThr % (Config.openWin.val + 1) < Config.openWin.val + 1 := Nat.mod_lt _ (Nat.succ_pos _)
  rw [openThr0, BitVec.toNat_ofNat, Nat.mod_eq_of_lt (by omega)]

theorem openThr0_le : openThr0.toNat ≤ openWin0.toNat := by
  rw [openThr0_toNat, openWin0_toNat]
  exact Nat.mod_lt _ (Nat.succ_pos _)

theorem tableLegal_defaultLtrTable : Params.spec.TableLegal defaultLtrTable :=
  ⟨rfl, rfl, rfl, by decide⟩

theorem tableLegal_defaultFigTable : Params.spec.TableLegal defaultFigTable :=
  ⟨rfl, rfl, rfl, by decide⟩

/-- The open parameters are held as offsets from the least legal value, so their ranges are those of R5. -/
theorem spec_legal : Params.spec.Legal where
  sampleW_ge := by decide
  sampleW_le := by decide
  dcMid_lt := by decide
  ringN_ge := Nat.le_add_left 2 _
  ringN_le := Nat.add_le_of_le_sub (by decide) (Nat.le_of_lt_succ Config.openRing.isLt)
  win0_pos := openWin0_toNat ▸ Nat.le_add_left 1 _
  thr0_pos := openThr0_toNat ▸ Nat.le_add_left 1 _
  thr0_le := openThr0_le
  baud0_pos := by decide
  figs_ne := by decide
  figs_pos := by decide
  ltrs_pos := by decide
  ltrTable := tableLegal_defaultLtrTable
  figTable := tableLegal_defaultFigTable

/-- Settles O55: the open parameters lie in the ranges of R5, and at legal parameters each part of the invariant holds at
reset. -/
theorem resetMeetsTheInvariant : Obligations.ResetMeetsTheInvariant :=
  ⟨spec_legal, fun _ => resetWith_inv⟩

/-- The periods of the default rate, 45.45 baud (R231). -/
theorem bitp_default : bitp 4545 = 22002 := by decide

theorem halfPeriod_default : halfPeriod 22002 = 11001 := by decide

theorem reset_bitp : State.reset.bitp = 22002 := bitp_default

theorem reset_halfp : State.reset.halfp = 11001 := by
  change halfPeriod (bitp 4545) = 11001
  rw [bitp_default, halfPeriod_default]

/-- Settles O54: `construct` writes the value listed for each element, and the periods are those of the rate. -/
theorem resetValuesAreAsListed : Obligations.ResetValuesAreAsListed :=
  ⟨fun _ => ⟨rfl, rfl, rfl, halfPeriod_toNat _, rfl, rfl, rfl, rfl, rfl, rfl, rfl, rfl, rfl, rfl, rfl, rfl⟩,
    rfl, reset_bitp, reset_halfp⟩

end Sys2Proof.Machine
end

section
/-! Taking a command, running it and answering it: the order on the ports (spec/20_memory.md R61), the one response of a
completed command (spec/30_encoding.md R78), the stops (spec/60_exceptions.md R212, R217) and the frames of INIT and DRAIN_TEXT. -/

namespace Sys2Proof.Machine

/-! ## Taking and placing a command (R61, R71) -/

/-- A step runs what the word taken decodes to (R60, R77). -/
theorem step_of_decode_ok {s s' : State} {port : Port} {w : Word} {i : Instr}
    (h : takeCommand s = some (port, w, s')) (hdec : decode port w = .ok i) : step s = exec i s' := by
  simp only [step, h, hdec]

theorem step_of_no_command {s : State} (h : takeCommand s = none) : step s = .next s := by
  simp only [step, h]

theorem takeCommand_eq_none_iff {s : State} : takeCommand s = none ↔ s.portP = [] ∧ s.portC = [] := by
  unfold takeCommand
  split
  · next hp hc => simp [hp, hc]
  · next hp hc => simp [hp]
  · next hp hc => simp [hc]
  · next hp hc => split <;> simp [hp]

/-- Settles O11: a step reads the word through `takeCommand` and the decoder, and where no word waits it does nothing. -/
theorem stepRunsTheDecodedCommand : Obligations.StepRunsTheDecodedCommand :=
  ⟨fun _ _ _ _ _ => step_of_decode_ok, fun _ hp hc => step_of_no_command (takeCommand_eq_none_iff.2 ⟨hp, hc⟩)⟩

/-- A 32-bit word of the opcode table is the word itself. -/
theorem tableWord_toNat (w : Word) : tableWord 32 w.toNat = w := by
  rw [tableWord, Nat.mod_eq_of_lt w.isLt, BitVec.ofNat_toNat, BitVec.setWidth_eq]

/-- The placed word is taken next, and taking it leaves the state it was placed in (notes/assumptions/10.md). -/
theorem takeCommand_withFetchWord (s : State) (w : Word) :
    takeCommand (s.withFetchWord 32 w.toNat) = some (.P, w, s) := by
  rw [State.withFetchWord, tableWord_toNat]
  cases hc : s.portC with
  | nil => simp only [takeCommand, supply_noInputs, List.isEmpty_nil, if_true]; rw [← hc]
  | cons c cs =>
    simp only [takeCommand, grant, supply_noInputs, List.isEmpty_cons, Bool.false_eq_true, if_false]; rw [← hc]

/-- Settles O12: the placed word is taken on port P, which accepts the command. -/
theorem placedWordRunsNext : Obligations.PlacedWordRunsNext :=
  fun s _ hi => step_of_decode_ok (takeCommand_withFetchWord s _) (decode_encode (wellFormedOn_iff.2 hi))

/-! ## The inputs of a command (R9, R54) -/

theorem supply_init {s : State} {c : Issued} (h : opField c.word = 0x01) :
    s.supply c = { s with samples := c.inputs.window.take 1 ++ s.samples } := by
  simp [State.supply, samplesPulled, h, Mnemonic.opcode]

theorem supply_step {s : State} {c : Issued} (h : opField c.word = 0x02) :
    s.supply c = { s with
      samples := c.inputs.window.take s.win.toNat ++ s.samples, clock := c.inputs.now.toList ++ s.clock } := by
  simp [State.supply, samplesPulled, h, Mnemonic.opcode]

theorem supply_other {s : State} {c : Issued} (h1 : opField c.word ≠ 0x01) (h2 : opField c.word ≠ 0x02) :
    s.supply c = s := by
  have hinit : opField c.word ≠ Mnemonic.INIT.opcode := h1
  have hstep : opField c.word ≠ Mnemonic.STEP.opcode := h2
  simp only [State.supply, samplesPulled, if_neg hinit, if_neg hstep, List.take_zero, List.nil_append]

theorem ports_of_ne {p q : Port} (h : q ≠ p) : (p = .P ∧ q = .C) ∨ (p = .C ∧ q = .P) := by
  cases p <;> cases q <;> simp at h ⊢

/-- Where both ports have a word and a choice is queued, the choice decides (R61, R64). -/
theorem takeCommand_of_arb {s : State} {q : Port} {rest : List Port} (hp : s.portP ≠ []) (hc : s.portC ≠ [])
    (harb : s.arb = q :: rest) : ∃ w t, takeCommand s = some (q, w, t) ∧ t.arb = rest := by
  obtain ⟨p, ps, hp⟩ := List.exists_cons_of_ne_nil hp
  obtain ⟨c, cs, hc⟩ := List.exists_cons_of_ne_nil hc
  cases q with
  | P =>
    exact ⟨p.word, { s with arb := rest, portP := ps }.supply p, by simp only [takeCommand, grant, hp, hc, harb], rfl⟩
  | C =>
    exact ⟨c.word, { s with arb := rest, portC := cs }.supply c, by simp only [takeCommand, grant, hp, hc, harb], rfl⟩

theorem issueWith_waiting (s : State) (p : Port) (w : Word) (x : Inputs) :
    (s.issueWith p w x).waiting p = s.waiting p ++ [⟨w, x⟩] := by
  cases p <;> rfl

theorem issueWith_waiting_other (s : State) {p q : Port} (h : q ≠ p) (w : Word) (x : Inputs) :
    (s.issueWith p w x).waiting q = s.waiting q := by
  obtain ⟨rfl, rfl⟩ | ⟨rfl, rfl⟩ := ports_of_ne h <;> rfl

/-- Settles O13: `takeCommand` pops one queue and supplies the inputs of what it popped, and issuing appends to one queue. -/
theorem commandsKeepIssueOrder : Obligations.CommandsKeepIssueOrder := by
  refine ⟨fun s t p w h => ?_, fun s h => ?_, fun s q rest => takeCommand_of_arb,
    fun s p w x => ⟨issueWith_waiting s p w x, fun q hq => issueWith_waiting_other s hq w x⟩⟩
  · obtain ⟨c, rfl, hhead, hother, ht⟩ := takeCommand_cases h
    refine ⟨c, rfl, hhead, hother, takeCommand_state h, fun hop => ?_, fun hop => ?_, fun h1 h2 => ?_⟩
    · rw [ht, supply_init hop]; exact ⟨rfl, rfl⟩
    · rw [ht, supply_step hop]; exact ⟨rfl, rfl⟩
    · rw [ht, supply_other h1 h2]; exact ⟨rfl, rfl⟩
  · rw [Option.isSome_iff_ne_none, ne_eq, takeCommand_eq_none_iff]
    tauto

/-! ## One response (R78) -/

theorem respond_responses (s : State) (p : Port) (r : Response) :
    (s.respond p r).responses p = s.responses p ++ [r] := by
  cases p <;> rfl

theorem respond_responses_other (s : State) {p q : Port} (h : q ≠ p) (r : Response) :
    (s.respond p r).responses q = s.responses q := by
  obtain ⟨rfl, rfl⟩ | ⟨rfl, rfl⟩ := ports_of_ne h <;> rfl

theorem responses_congr {s u : State} (hP : u.respP = s.respP) (hC : u.respC = s.respC) :
    u.responses = s.responses := by
  funext p
  cases p
  · exact hP
  · exact hC

/-- The characters a DRAIN_TEXT returns: none where there is no room for the terminator (R172). -/
def drainedText (maxLen : Arg) (s : State) : List Byte :=
  if maxLen = 0 then [] else (drain (drainLimit maxLen) s).1

/-- The response of a command that completes (R78, R172). -/
def answer (s : State) : Instr → Response
  | .drainText _ m =>
    .text (BitVec.ofNat 24 (drainedText m s).length) (drainedText m s ++ if m = 0 then [] else [0])
  | .init | .step | .setBaud _ | .setWindow _ | .setThreshold _ | .setDebug _ => .ack

theorem drainedText_count (m : Arg) (s : State) :
    (BitVec.ofNat 24 (drainedText m s).length).toNat = (drainedText m s).length := by
  unfold drainedText
  split
  · rfl
  · exact drain_count_toNat m s

/-- Every command that completes puts its answer, as its last act, on its port, after effects that leave the responses as they
were. -/
theorem exec_next_respond {i : Instr} {s t : State} (h : exec i s = .next t) :
    ∃ u : State, u.responses = s.responses ∧ t = u.respond i.port (answer s i) := by
  cases i with
  | init => exact ⟨_, responses_congr (by rw [pullCentred_state]) (by rw [pullCentred_state]), exec_init_next h⟩
  | step =>
    obtain ⟨tone, now, w, -, ho, rfl⟩ := exec_step_next h
    have hw := observe_eq ho
    exact ⟨_, responses_congr (by rw [frameStep_state, hw]) (by rw [frameStep_state, hw]), rfl⟩
  | drainText p m =>
    rcases exec_drainText_next h with ⟨rfl, rfl⟩ | ⟨hm, rfl⟩
    · exact ⟨s, rfl, rfl⟩
    · exact ⟨(drain (drainLimit m) s).2, responses_congr rfl rfl,
        by simp only [answer, drainedText, if_neg hm, Instr.port]⟩
  | setBaud r => exact ⟨_, responses_congr (by split <;> rfl) (by split <;> rfl), exec_setBaud_next h⟩
  | setWindow n => exact ⟨_, responses_congr (by split <;> rfl) (by split <;> rfl), exec_setWindow_next h⟩
  | setThreshold n => exact ⟨_, responses_congr (by split <;> rfl) (by split <;> rfl), exec_setThreshold_next h⟩
  | setDebug e => exact ⟨{ s with dbg := e }, responses_congr rfl rfl, exec_setDebug_next h⟩

theorem exec_responses {i : Instr} {s t : State} (h : exec i s = .next t) :
    t.responses i.port = s.responses i.port ++ [answer s i] := by
  obtain ⟨u, hu, rfl⟩ := exec_next_respond h
  rw [respond_responses, hu]

theorem exec_responses_other {i : Instr} {s t : State} (h : exec i s = .next t) {q : Port} (hq : q ≠ i.port) :
    t.responses q = s.responses q := by
  obtain ⟨u, hu, rfl⟩ := exec_next_respond h
  rw [respond_responses_other u hq, hu]

/-- Settles O14: the one response is `answer`, on the command's port. -/
theorem oneResponseOnTheIssuingPort : Obligations.OneResponseOnTheIssuingPort := by
  refine fun i s t h => ⟨⟨answer s i, exec_responses h, ?_, fun hne => ?_⟩, fun q hq => exec_responses_other h hq⟩
  · rintro p m rfl
    exact ⟨_, _, drainedText_count m s, rfl⟩
  · cases i with
    | drainText p m => exact absurd rfl (hne p m)
    | init | step | setBaud | setWindow | setThreshold | setDebug => rfl

/-! ## Pseudo-commands (R80) -/

/-- The operand of `DRAIN n`, as a number. -/
theorem drainOperand_toNat {n : Nat} (h : n + 1 ≤ 2 ^ 24 - 1) : (BitVec.ofNat 24 (n + 1)).toNat = n + 1 := by
  rw [BitVec.toNat_ofNat, Nat.mod_eq_of_lt (by omega)]

/-- `DRAIN n` returns at most `n` characters (R80). -/
theorem drainedText_length_le {n : Nat} (h : n + 1 ≤ 2 ^ 24 - 1) (s : State) :
    (drainedText (BitVec.ofNat 24 (n + 1)) s).length ≤ n := by
  unfold drainedText
  split
  · exact Nat.zero_le n
  · rw [drain_out_length, drainLimit, drainOperand_toNat h]
    exact Nat.min_le_right _ _

/-- Settles O9: a line is its command's encoding where R80's condition makes it well formed, and the answer of `DRAIN n` is
that of a DRAIN_TEXT with room for `n` characters. -/
theorem pseudoCommandsExpand : Obligations.PseudoCommandsExpand := by
  refine ⟨fun p r hd h1 h2 => ?_, fun p => ⟨?_, ?_⟩, fun p n hn => ?_, fun p n s t hn h => ?_⟩
  · exact assemble_stmt p (stmt := .setBaudRate r)
      (by simp only [AsmStmt.wellFormed, maxOperand, hd, h1, h2, decide_true, Bool.and_self])
  · exact assemble_stmt p (stmt := .debugOn) rfl
  · exact assemble_stmt p (stmt := .debugOff) rfl
  · exact assemble_stmt p (stmt := .drain n) (decide_eq_true hn)
  · have hne : BitVec.ofNat 24 (n + 1) ≠ 0 :=
      ne_zero_of_one_le_toNat (by rw [drainOperand_toNat hn]; omega)
    have hresp := exec_responses h
    rw [answer, if_neg hne] at hresp
    exact ⟨_, drainedText_length_le hn s, hresp⟩

/-! ## Frames of INIT, SET_DEBUG and DRAIN_TEXT -/

/-- Settles O16: what INIT writes is listed in `exec_init_next`, and its pull writes the sample source only. -/
theorem initFrame : Obligations.InitFrame := by
  intro s t h
  rw [exec_init_next h, pullCentred_state]
  simp [SameConfig, SameRing, SamePorts]

/-- Settles O21: SET_DEBUG has no check. -/
theorem setDebugWritesEnable : Obligations.SetDebugWritesEnable :=
  fun _ _ => rfl

/-- With no room for a character DRAIN_TEXT does not move the read cursor (R172). -/
theorem exec_drainText_rptr {port : Port} {maxLen : Arg} {s t : State} (h : exec (.drainText port maxLen) s = .next t)
    (hlen : maxLen.toNat ≤ 1) (hr : s.rptr.toNat < s.cfg.ringN) : t.rptr = s.rptr := by
  rcases exec_drainText_next h with ⟨-, rfl⟩ | ⟨-, rfl⟩
  · exact respond_rptr _ _ _
  · have hlimit : drainLimit maxLen = 0 := Nat.sub_eq_zero_of_le hlen
    rw [respond_rptr, hlimit, drain_of_min_eq_zero hr (Nat.min_zero _)]

/-- Settles O44: DRAIN_TEXT's effect is `exec_drainText_state`, and its answer goes to its port. -/
theorem drainTextFrame : Obligations.DrainTextFrame := by
  intro port maxLen s t h
  have hstate := exec_drainText_state h
  exact ⟨hstate, fun a => by rw [hstate], fun q hq => exec_responses_other h hq, exec_drainText_rptr h⟩

/-! ## Stops (R212, R217) -/

/-- Every command but a STEP before INIT completes. -/
theorem exec_completes {i : Instr} {s : State} (h : ¬(i = .step ∧ s.initDone = false)) : ∃ t, exec i s = .next t := by
  cases i with
  | init => exact ⟨_, exec_init_eq s⟩
  | step =>
    have hinit : s.initDone = true := by simpa using h
    exact ⟨_, exec_step_eq hinit rfl⟩
  | drainText p m =>
    by_cases hm : m = 0
    · exact ⟨_, hm ▸ exec_drainText_zero p s⟩
    · exact ⟨_, exec_drainText_of_ne_zero hm s⟩
  | setBaud _ | setWindow _ | setThreshold _ =>
    simp only [exec, execSetBaud, execSetWindow, execSetThreshold]
    split <;> exact ⟨_, rfl⟩
  | setDebug e => exact ⟨_, rfl⟩

theorem exec_fault_iff {i : Instr} {s : State} {r : Fault} : exec i s = .fault r ↔ i = .step ∧ s.initDone = false := by
  constructor
  · intro h
    by_contra hne
    obtain ⟨t, ht⟩ := exec_completes hne
    cases ht.symm.trans h
  · rintro ⟨rfl, hs⟩
    cases r
    exact exec_step_of_not_initDone hs

theorem exec_ne_refused (i : Instr) (s : State) (r : Refusal) : exec i s ≠ .refused r := by
  intro h
  by_cases hstop : i = .step ∧ s.initDone = false
  · obtain ⟨rfl, hs⟩ := hstop
    cases (exec_step_of_not_initDone hs).symm.trans h
  · obtain ⟨t, ht⟩ := exec_completes hstop
    cases ht.symm.trans h

/-- A step refuses only a word the decoder refuses. -/
theorem step_refused {s : State} {r : Refusal} (h : step s = .refused r) :
    ∃ port w s' e, takeCommand s = some (port, w, s') ∧ decode port w = .error e := by
  cases htake : takeCommand s with
  | none => cases (step_of_no_command htake).symm.trans h
  | some c =>
    obtain ⟨port, w, s'⟩ := c
    cases hdec : decode port w with
    | ok i => exact absurd ((step_of_decode_ok htake hdec).symm.trans h) (exec_ne_refused i s' r)
    | error e => exact ⟨port, w, s', e, rfl, hdec⟩

/-- Settles O49: every command but a STEP before INIT completes, so what is left is that fault and the decoder's refusals. -/
theorem onlyStepBeforeInitFaults : Obligations.OnlyStepBeforeInitFaults :=
  ⟨fun _ _ _ => exec_fault_iff, exec_ne_refused, fun _ _ => step_refused⟩

end Sys2Proof.Machine
end

section
/-! What a STEP observes, does and leaves alone (spec/41_framing.md R121), the sample source it pulls from
(spec/20_memory.md R54, R55), and whole frames (R132, R137). -/

namespace Sys2Proof.Machine

/-! ## Pulls (R54, R55) -/

theorem pull_of_cons {s : State} {x : Sample} {xs : List Sample} (h : s.samples = x :: xs) :
    pull s = (asSample s.cfg x, { s with samples := xs }) := by
  simp only [pull, h]

/-- Pulls that the queue can serve take its front, each sample cut to the source's width. -/
theorem pullMany_of_le {n : Nat} {s : State} (h : n ≤ s.samples.length) :
    pullMany n s = ((s.samples.take n).map (asSample s.cfg), { s with samples := s.samples.drop n }) := by
  induction n generalizing s with
  | zero => rfl
  | succ n ih =>
    obtain ⟨x, xs, hxs⟩ := List.exists_cons_of_length_pos (Nat.zero_lt_of_lt h)
    rw [hxs, List.length_cons] at h
    rw [pullMany_succ, pull_of_cons hxs, ih (Nat.le_of_succ_le_succ h), hxs]
    rfl

theorem pullMany_lt (n : Nat) (s : State) : ∀ x ∈ (pullMany n s).1, x.toNat < 2 ^ s.cfg.sampleW := by
  induction n generalizing s with
  | zero => exact fun x hx => absurd hx List.not_mem_nil
  | succ n ih =>
    rw [pullMany_succ, List.forall_mem_cons]
    exact ⟨pull_lt s, pull_cfg s ▸ ih (pull s).2⟩

/-- Samples of the source's width come as they are (R54). -/
theorem map_asSample {p : Params} {xs : List Sample} (h : ∀ x ∈ xs, x.toNat < 2 ^ p.sampleW) :
    xs.map (asSample p) = xs :=
  (List.map_congr_left fun x hx => asSample_of_lt (h x hx)).trans (List.map_id' xs)

/-- Settles O26: pulls take the front of the queue, and `asSample` is the identity on samples of the width. -/
theorem samplesAreConsumedInOrder : Obligations.SamplesAreConsumedInOrder := by
  refine fun n s => ⟨fun hn hx => ?_, pullMany_of_le, pullMany_length n s, pullMany_lt n s⟩
  rw [pullMany_of_le hn, map_asSample fun x h => hx x (List.mem_of_mem_take h)]

/-! ## The clock (R216, R235) -/

/-- Settles O31: less than 2^31 microseconds apart, the difference modulo 2^32 is in the lower half exactly when `now` is not
before the instant. -/
theorem timelyClockIsReadExactly : Obligations.TimelyClockIsReadExactly := by
  intro t now htimely
  obtain ⟨hbefore, hafter⟩ := htimely
  rw [reached_iff, elapsed_toNat, BitVec.toNat_ofNat, BitVec.toNat_ofNat]
  omega

theorem readClock_of_cons {s : State} {t : Time} {rest : List Time} (h : s.clock = t :: rest) :
    readClock s = (t, { s with clock := rest }) := by
  simp only [readClock, h]

theorem readClock_of_nil {s : State} (h : s.clock = []) : (readClock s).2.clock = [] := by
  simp only [readClock, h]

/-! ## What a STEP observes (R121) -/

theorem discriminate_clock (s : State) : (discriminate s).2.clock = s.clock := by rw [discriminate_state]

theorem discriminate_samples (s : State) : (discriminate s).2.samples = (pullMany s.win.toNat s).2.samples := by
  rw [discriminate_eq, windowLoop_eq]

section Observed
variable {s w : State} {tone : Tone} {now : Time} (ho : observe s = (tone, now, w))
include ho

/-- The observation is a window and then one reading of the clock. -/
theorem observe_parts : tone = (discriminate s).1 ∧ readClock (discriminate s).2 = (now, w) := by
  have hdef : observe s = ((discriminate s).1, readClock (discriminate s).2) := rfl
  rw [hdef, Prod.mk.injEq] at ho
  exact ⟨ho.1.symm, ho.2⟩

/-- The clock reading leaves what the window left. -/
theorem observe_eq_discriminate : w = { (discriminate s).2 with clock := w.clock, drawn := w.drawn } := by
  have hw := readClock_state (discriminate s).2
  rw [(observe_parts ho).2] at hw
  exact hw

theorem observe_prev : w.prev = (discriminate s).2.prev := by rw [observe_eq_discriminate ho]

theorem observe_samples : w.samples = (discriminate s).2.samples := by rw [observe_eq_discriminate ho]

theorem observe_clock_of_cons {t : Time} {rest : List Time} (h : s.clock = t :: rest) : now = t ∧ w.clock = rest := by
  have hread := (readClock_of_cons ((discriminate_clock s).trans h)).symm.trans (observe_parts ho).2
  obtain ⟨rfl, rfl⟩ := Prod.mk.injEq _ _ _ _ ▸ hread
  exact ⟨rfl, rfl⟩

theorem observe_clock_of_nil (h : s.clock = []) : w.clock = [] := by
  have hread := readClock_of_nil ((discriminate_clock s).trans h)
  rwa [(observe_parts ho).2] at hread

end Observed

/-- The inputs supplied to a STEP stand before the shared ones when it starts (R79). -/
theorem takeCommand_step {s t : State} {port : Port} {c : Issued} (h : takeCommand s = some (port, c.word, t))
    (hc : s.waiting port = c :: t.waiting port) (hop : opField c.word = 0x02) :
    t.samples = c.inputs.window.take s.win.toNat ++ s.samples ∧ t.clock = c.inputs.now.toList ++ s.clock := by
  obtain ⟨d, -, hd, -, ht⟩ := takeCommand_cases h
  obtain rfl : d = c := (List.cons.inj (hd.symm.trans hc)).1
  rw [ht, supply_step hop]
  exact ⟨rfl, rfl⟩

/-- Settles O33: the observation is DISCRIMINATE and one clock reading; what was supplied to the STEP is at the front of both
queues, and a whole window or a `now` taken from there leaves the shared part. -/
theorem stepObservesWindowThenClock : Obligations.StepObservesWindowThenClock := by
  refine ⟨fun s w tone now ho => ?_, fun s s' w port c tone now htake hhead hop ho => ?_⟩
  · exact ⟨(observe_parts ho).1, observe_prev ho, observe_samples ho, fun _ _ => observe_clock_of_cons ho,
      observe_clock_of_nil ho, observe_eq ho⟩
  · obtain ⟨hsamples, hclock⟩ := takeCommand_step htake hhead hop
    obtain ⟨hcfg, -, -, -, hwin, -⟩ := sameConfig_takeCommand htake
    refine ⟨fun t ht => observe_clock_of_cons ho (by rw [hclock, ht]; rfl), fun hlen => ?_⟩
    have htaken : (c.inputs.window.take s.win.toNat).length = s.win.toNat := List.length_take_of_le hlen
    have hpull := pullMany_of_le (n := s.win.toNat) (s := s') (by rw [hsamples, List.length_append]; omega)
    rw [observe_samples ho, discriminate_samples, hwin, hpull, hsamples, hcfg, List.take_left' htaken,
      List.drop_left' htaken]
    exact ⟨rfl, rfl⟩

/-! ## The frame of a STEP (R121, R170) -/

theorem sameRing_observe {s w : State} {tone : Tone} {now : Time} (ho : observe s = (tone, now, w)) :
    SameRing s w := by
  rw [observe_eq ho]; exact ⟨rfl, rfl, fun _ => rfl⟩

theorem SameRing.trans {s t u : State} (h : SameRing s t) (h' : SameRing t u) : SameRing s u := by
  obtain ⟨hw, hr, hread⟩ := h
  obtain ⟨hw', hr', hread'⟩ := h'
  exact ⟨hw'.trans hw, hr'.trans hr, fun a => (hread' a).trans (hread a)⟩

theorem sameRing_respond (s : State) (p : Port) (r : Response) : SameRing s (s.respond p r) := by
  simp [SameRing]

/-- Of the transitions only a valid stop bit touches the ring or SHIFT (R131). -/
theorem frameStep_stopValid_or_sameRing (tone : Tone) (now : Time) (s : State) :
    (s.fstate = .stopBits ∧ reached s.tNext now = true ∧ tone = .mark ∧ frameStep tone now s = stopValid s) ∨
    (SameRing s (frameStep tone now s) ∧ (frameStep tone now s).shift = s.shift) := by
  rcases frameStep_cases tone now s with
    e | ⟨_, _, e⟩ | ⟨_, _, _, e⟩ | ⟨_, _, _, e⟩ | ⟨_, _, e⟩ | hvalid | ⟨_, _, _, e⟩
  · exact .inr (by rw [e]; simp [SameRing])
  · exact .inr (by rw [e]; simp [SameRing])
  · exact .inr (by rw [e]; simp [SameRing, confirm])
  · exact .inr (by rw [e]; simp [SameRing, reject])
  · exact .inr (by rw [e, sampleBit_state]; simp [SameRing])
  · exact .inl hvalid
  · exact .inr (by rw [e]; simp [SameRing, stopError])

/-- A delivered character is written to the cell of `pushIndex` only. -/
theorem deliver_read_other (ch : Option Byte) {s : State} {a : Nat} (h : a ≠ pushIndex s) :
    (deliver ch s).rbuf.read a = s.rbuf.read a := by
  cases ch with
  | none => rfl
  | some c => exact push_read_other c h

theorem frameStep_read_other (tone : Tone) (now : Time) {s : State} {a : Nat} (h : a ≠ pushIndex s) :
    (frameStep tone now s).rbuf.read a = s.rbuf.read a := by
  rcases frameStep_stopValid_or_sameRing tone now s with ⟨-, -, -, e⟩ | ⟨⟨-, -, hread⟩, -⟩
  · rw [e, stopValid_of_decode Prod.mk.eta.symm]; exact deliver_read_other _ h
  · exact hread a

/-- A code without a character leaves the ring as it was, also at a valid stop bit (R131). -/
theorem frameStep_sameRing_of_no_char (tone : Tone) (now : Time) {s : State}
    (h : (baudotDecode s.cfg s.acc s.shift).1 = none) : SameRing s (frameStep tone now s) := by
  rcases frameStep_stopValid_or_sameRing tone now s with ⟨-, -, -, e⟩ | ⟨hring, -⟩
  · rw [e, stopValid_of_decode Prod.mk.eta.symm, h]; exact ⟨rfl, rfl, fun _ => rfl⟩
  · exact hring

/-- Settles O38: the observation touches none of it, and of the transitions only a valid stop bit touches the ring and SHIFT. -/
theorem stepFrame : Obligations.StepFrame := by
  intro s w t tone now ho h
  obtain ⟨tone', now', w', -, ho', rfl⟩ := exec_step_next h
  obtain ⟨rfl, rfl, rfl⟩ : tone = tone' ∧ now = now' ∧ w = w' := by simpa using ho.symm.trans ho'
  obtain ⟨hfs, -, htNext, hacc, -⟩ := sameFraming_observe ho
  have hconfig := (sameConfig_observe ho).trans (sameConfig_frameStep tone now w)
  have hring := sameRing_observe ho
  have hrespond := sameRing_respond (frameStep tone now w) .P .ack
  refine ⟨hconfig.trans (sameConfig_respond _ _ _), exec_initDone h (by simp), ?_, ?_, fun a ha => ?_, fun hstop => ?_,
    fun hch => ?_⟩
  · rw [frameStep_state, observe_eq ho]; simp [SamePorts]
  · rw [frameStep_state, observe_eq ho]; rfl
  · rw [respond_rbuf, frameStep_read_other tone now ha, hring.2.2]
  · rw [← hfs, ← htNext] at hstop
    rcases frameStep_stopValid_or_sameRing tone now w with ⟨hf, hr, hm, -⟩ | ⟨hframe, hshift⟩
    · exact absurd ⟨hf, hr, hm⟩ hstop
    · exact ⟨(hring.trans hframe).trans hrespond, by rw [respond_shift, hshift, observe_shift ho]⟩
  · rw [← hacc, ← observe_shift ho, ← (sameConfig_observe ho).1] at hch
    exact (hring.trans (frameStep_sameRing_of_no_char tone now hch)).trans hrespond

/-! ## Where FSTATE moves (R21) -/

/-- The transitions of R122 to R132 that leave their state. -/
abbrev fstateMoves : List (FramingState × FramingState) :=
  [(.idle, .startConfirm), (.startConfirm, .dataBits), (.startConfirm, .idle), (.dataBits, .stopBits), (.stopBits, .idle)]

theorem frameStep_fstate_moves {tone : Tone} {now : Time} {s : State} (h : (frameStep tone now s).fstate ≠ s.fstate) :
    (s.fstate, (frameStep tone now s).fstate) ∈ fstateMoves := by
  rcases frameStep_cases tone now s with
    e | ⟨hf, _, e⟩ | ⟨hf, _, _, e⟩ | ⟨hf, _, _, e⟩ | ⟨hf, _, e⟩ | ⟨hf, _, _, e⟩ | ⟨hf, _, _, e⟩ <;> rw [e] at h ⊢
  · exact absurd rfl h
  · rw [hf]; simp
  · rw [hf]; simp [confirm]
  · rw [hf]; simp [reject]
  · rw [sampleBit_state] at h ⊢
    split at h
    · next hlast => rw [if_pos hlast, hf]; simp
    · exact absurd rfl h
  · rw [hf, stopValid_state]; simp
  · rw [hf]; simp [stopError]

/-- Settles O48: INIT writes Idle, STEP writes what its transition does, and no other command writes FSTATE. -/
theorem framingStateMovesOnlyAsListed : Obligations.FramingStateMovesOnlyAsListed := by
  intro i s t h hne
  cases i with
  | init => exact .inl ⟨rfl, by rw [exec_init_next h, respond_fstate]⟩
  | step =>
    obtain ⟨tone, now, w, -, ho, rfl⟩ := exec_step_next h
    rw [respond_fstate, ← (sameFraming_observe ho).1] at hne ⊢
    exact .inr ⟨rfl, frameStep_fstate_moves hne⟩
  | drainText p m => exact absurd (by rw [exec_drainText_state h]) hne
  | setBaud _ | setWindow _ | setThreshold _ | setDebug _ =>
    exact absurd (by rw [exec_setter_state (by simp [IsSetter, Instr.mnemonic]) h]) hne

end Sys2Proof.Machine
end

section
/-! Whole frames (spec/41_framing.md R132, R137): from Idle through the start check and the five data bits, one lemma for each
kind of step, up to the stop instant. -/

namespace Sys2Proof.Machine

/-- The instant of data bit `k`, and of the stop bit for `k = 5`, of a frame that starts at `t0` (R137). -/
def frameInstant (s : State) (t0 : Time) (k : Nat) : Time := t0 + s.bitp + s.halfp + BitVec.ofNat 32 k * s.bitp

/-- The first `k` bits of a code, the others 0 (R33). -/
def receivedBits (code : Code) (k : Nat) : Code := BitVec.ofNat 5 (code.toNat % 2 ^ k)

/-- The state `s` once it has confirmed a start at `t0` and taken `k` bits of `code`. -/
def afterBits (s : State) (code : Code) (t0 : Time) (k : Nat) : State :=
  { s with
    fstate := if k = 5 then .stopBits else .dataBits
    tStart := t0
    tNext := frameInstant s t0 k
    acc := receivedBits code k
    cnt := BitVec.ofNat 3 k }

theorem frameSteps_cons (x : Tone × Time) (xs : List (Tone × Time)) (s : State) :
    frameSteps (x :: xs) s = frameSteps xs (frameStep x.1 x.2 s) := rfl

theorem frameSteps_nil (s : State) : frameSteps [] s = s := rfl

theorem frameInstant_zero (s : State) (t0 : Time) : frameInstant s t0 0 = t0 + s.bitp + s.halfp := by
  simp [frameInstant]

/-- The grid advances by one bit period from itself (R129). -/
theorem frameInstant_succ (s : State) (t0 : Time) (k : Nat) :
    frameInstant s t0 (k + 1) = frameInstant s t0 k + s.bitp := by
  rw [frameInstant, frameInstant, BitVec.ofNat_add, BitVec.add_mul, BitVec.one_mul, ← BitVec.add_assoc]

theorem receivedBits_zero (code : Code) : receivedBits code 0 = 0 := by
  rw [receivedBits, pow_zero, Nat.mod_one]; rfl

theorem receivedBits_five (code : Code) : receivedBits code 5 = code := by
  rw [receivedBits, Nat.mod_eq_of_lt code.isLt, BitVec.ofNat_toNat, BitVec.setWidth_eq]

/-- The tone of bit `k` puts that bit above those received (R126, R128). -/
theorem receivedBits_succ (code : Code) {k : Nat} (hk : k < 5) :
    receivedBits code k ||| (bitOf (toneOfBit code k) <<< k) = receivedBits code (k + 1) := by
  interval_cases k <;> revert code <;> decide

section Frame
variable {s : State} {code : Code} {t0 : Time}

/-- A Space in Idle starts a candidate (R122). -/
theorem frameStep_idle_space (h : s.fstate = .idle) (now : Time) :
    frameStep .space now s = { s with tStart := now, fstate := .startConfirm } :=
  frameStep_of_idle h

/-- Half a bit later a Space confirms the candidate, with no bit received yet (R124). -/
theorem frameStep_confirm {n1 : Time} (h : s.halfp.toNat ≤ (elapsed t0 n1).toNat) :
    frameStep .space n1 { s with tStart := t0, fstate := .startConfirm } = afterBits s code t0 0 := by
  rw [frameStep_of_startConfirm rfl, startStep_space (halfDone_iff.2 h), afterBits, frameInstant_zero, receivedBits_zero]
  rfl

/-- At its instant the tone of bit `k` is taken as that bit (R127 to R129). -/
theorem frameStep_afterBits {k : Nat} {now : Time} (hk : k < 5) (h : reached (frameInstant s t0 k) now = true) :
    frameStep (toneOfBit code k) now (afterBits s code t0 k) = afterBits s code t0 (k + 1) := by
  have hdata : (afterBits s code t0 k).fstate = .dataBits := if_neg hk.ne
  have hcnt : (BitVec.ofNat 3 k).toNat = k := by rw [BitVec.toNat_ofNat, Nat.mod_eq_of_lt (by omega)]
  have hsucc : BitVec.ofNat 3 (k + 1) = BitVec.ofNat 3 k + 1 := BitVec.ofNat_add k 1
  have hfive : BitVec.ofNat 3 k + 1 = 5 ↔ k + 1 = 5 := by interval_cases k <;> decide
  rw [frameStep_of_dataBits hdata, dataStep_due (s := afterBits s code t0 k) h, sampleBit_state, hdata, afterBits, hcnt]
  simp only [hfive, receivedBits_succ code hk, ← frameInstant_succ]
  rw [afterBits, hsucc]

/-- From Idle to the stop instant: the five bits of the code are received and the grid stands at the stop bit. -/
theorem frameSteps_to_stop {n1 : Time} {n : Fin 6 → Time} (hf : s.fstate = .idle)
    (hhalf : s.halfp.toNat ≤ (elapsed t0 n1).toNat)
    (hn : ∀ k : Fin 6, reached (t0 + s.bitp + s.halfp + BitVec.ofNat 32 k.val * s.bitp) (n k) = true)
    (rest : List (Tone × Time)) :
    frameSteps ((.space, t0) :: (.space, n1) :: (toneOfBit code 0, n 0) :: (toneOfBit code 1, n 1) ::
        (toneOfBit code 2, n 2) :: (toneOfBit code 3, n 3) :: (toneOfBit code 4, n 4) :: rest) s =
      frameSteps rest (afterBits s code t0 5) := by
  simp only [frameSteps_cons]
  rw [frameStep_idle_space hf, frameStep_confirm (code := code) hhalf,
    frameStep_afterBits (k := 0) (by decide) (hn 0), frameStep_afterBits (k := 1) (by decide) (hn 1),
    frameStep_afterBits (k := 2) (by decide) (hn 2), frameStep_afterBits (k := 3) (by decide) (hn 3),
    frameStep_afterBits (k := 4) (by decide) (hn 4)]

/-- The ring operations do not read the framing registers. -/
theorem deliver_clear (ch : Option Byte) (s : State) :
    { deliver ch s with acc := 0, cnt := 0, fstate := .idle } =
      deliver ch { s with acc := 0, cnt := 0, fstate := .idle } := by
  cases ch with
  | none => rfl
  | some c => simp only [deliver, push_state]; rfl

/-- Clearing what a frame has received gives the registers of Idle back, but for the times. -/
theorem afterBits_clear (hf : s.fstate = .idle) (hacc : s.acc = 0) (hcnt : s.cnt = 0) (k : Nat) :
    { afterBits s code t0 k with acc := 0, cnt := 0, fstate := .idle } =
      { s with tStart := t0, tNext := frameInstant s t0 k } := by
  have hs : { s with acc := 0, cnt := 0, fstate := .idle } = s := by rw [← hf, ← hacc, ← hcnt]
  exact congrArg (fun u : State => { u with tStart := t0, tNext := frameInstant s t0 k }) hs

end Frame

/-- Settles O46: at the stop instant the accumulator holds the code, and a Mark hands it to the codec. -/
theorem frameDeliversItsCode : Obligations.FrameDeliversItsCode := by
  intro s code t0 n1 n hf hacc hcnt hhalf hn
  have hdec : baudotDecode (afterBits s code t0 5).cfg (afterBits s code t0 5).acc (afterBits s code t0 5).shift =
      baudotDecode s.cfg code s.shift := congrArg (baudotDecode s.cfg · s.shift) (receivedBits_five code)
  have hclear := afterBits_clear (code := code) (t0 := t0) hf hacc hcnt 5
  rw [frameSteps_to_stop hf hhalf hn, frameSteps_cons, frameSteps_nil, frameStep_of_stopBits (s := afterBits s code t0 5) rfl,
    stopStep_mark (s := afterBits s code t0 5) (hn 5),
    stopValid_of_decode (hdec.trans Prod.mk.eta.symm), deliver_clear]
  exact congrArg (fun u : State => deliver (baudotDecode s.cfg code s.shift).1
    { u with shift := (baudotDecode s.cfg code s.shift).2 }) hclear

/-- Settles O47: a Space at the stop instant clears the accumulator and hands nothing on, and the next Space finds Idle. -/
theorem framingErrorEmitsNothing : Obligations.FramingErrorEmitsNothing := by
  intro s code t0 n1 t1 n hf hacc hcnt hhalf hn
  have hclear := afterBits_clear (code := code) (t0 := t0) hf hacc hcnt 5
  have herror : stopError (afterBits s code t0 5) = { s with tStart := t0, tNext := frameInstant s t0 5 } := hclear
  rw [frameSteps_to_stop hf hhalf hn, frameSteps_cons, frameSteps_cons, frameSteps_nil,
    frameStep_of_stopBits (s := afterBits s code t0 5) rfl,
    stopStep_space (s := afterBits s code t0 5) (hn 5), herror]
  exact frameStep_idle_space (s := { s with tStart := t0, tNext := frameInstant s t0 5 }) hf t1

end Sys2Proof.Machine
end

section
/-! What cannot be observed: the debug enable (spec/10_state.md R27), the ring and port C's side but through DRAIN_TEXT (R41), and
a drain's place inside a STEP (spec/20_memory.md R60). -/

namespace Sys2Proof.Machine

/-! ## What an observation depends on -/

/-- The state `x` with what an observation reads or writes taken from `s`. -/
def State.withObserved (x s : State) : State :=
  { x with
    cfg := s.cfg, win := s.win, thr := s.thr, prev := s.prev, samples := s.samples, clock := s.clock, drawn := s.drawn }

theorem pull_withObserved (x s : State) : pull (x.withObserved s) = ((pull s).1, x.withObserved (pull s).2) := by
  cases h : s.samples <;> simp only [pull, State.withObserved, h]

theorem readClock_withObserved (x s : State) :
    readClock (x.withObserved s) = ((readClock s).1, x.withObserved (readClock s).2) := by
  cases h : s.clock <;> simp only [readClock, State.withObserved, h]

theorem windowLoop_withObserved (n count : Nat) (x s : State) :
    windowLoop n count (x.withObserved s) = ((windowLoop n count s).1, x.withObserved (windowLoop n count s).2) := by
  induction n generalizing count s with
  | zero => rfl
  | succ n ih =>
    rw [windowLoop_succ, windowLoop_succ, pull_withObserved]
    exact ih _ { (pull s).2 with prev := centre s.cfg (pull s).1 }

/-- An observation sees the rest of the state neither in what it returns nor in what it writes (R121). -/
theorem observe_withObserved {s w : State} {tone : Tone} {now : Time} (x : State) (ho : observe s = (tone, now, w)) :
    observe (x.withObserved s) = (tone, now, x.withObserved w) := by
  obtain ⟨rfl, hread⟩ := observe_parts ho
  have hwindow : discriminate (x.withObserved s) = ((discriminate s).1, x.withObserved (discriminate s).2) := by
    rw [discriminate_eq, discriminate_eq]
    simp only [show (x.withObserved s).win = s.win from rfl, show (x.withObserved s).thr = s.thr from rfl,
      windowLoop_withObserved]
  simp only [observe, hwindow, readClock_withObserved, hread]

/-- Settles O53: a drain writes the read cursor, and an observation neither reads nor writes the ring. -/
theorem drainInsideStepIsDrainBefore : Obligations.DrainInsideStepIsDrainBefore := by
  intro m s w tone now ho
  have hbefore : observe (drain m s).2 = (tone, now, (drain m s).2.withObserved w) :=
    observe_withObserved (drain m s).2 ho
  rw [hbefore, observe_eq ho]
  exact ⟨rfl, rfl⟩

/-! ## The debug enable (R27) -/

/-- The state with `DBG` set to `d`. -/
def State.setDbg (d : Bool) (s : State) : State := { s with dbg := d }

theorem observe_setDbg {s w : State} {tone : Tone} {now : Time} (d : Bool) (ho : observe s = (tone, now, w)) :
    observe (s.setDbg d) = (tone, now, w.setDbg d) := by
  have h := observe_withObserved (s.setDbg d) ho
  have hw : w.setDbg d = (s.setDbg d).withObserved w := by rw [observe_eq ho]; rfl
  rw [hw]; exact h

theorem stopValid_setDbg (d : Bool) (s : State) : stopValid (s.setDbg d) = (stopValid s).setDbg d := by
  have hdec : baudotDecode (s.setDbg d).cfg (s.setDbg d).acc (s.setDbg d).shift = baudotDecode s.cfg s.acc s.shift := rfl
  rw [stopValid_of_decode (hdec.trans Prod.mk.eta.symm), stopValid_of_decode (s := s) Prod.mk.eta.symm]
  cases (baudotDecode s.cfg s.acc s.shift).1 with
  | none => rfl
  | some c => simp only [deliver, push_state]; rfl

theorem frameStep_setDbg (d : Bool) (tone : Tone) (now : Time) (s : State) :
    frameStep tone now (s.setDbg d) = (frameStep tone now s).setDbg d := by
  have hhalf : halfDone (s.setDbg d) now = halfDone s now := rfl
  have hnext : (s.setDbg d).tNext = s.tNext := rfl
  have hbit : sampleBit tone (s.setDbg d) = (sampleBit tone s).setDbg d := by
    rw [sampleBit_state, sampleBit_state]; rfl
  cases hf : s.fstate with
  | idle =>
    rw [frameStep_of_idle hf, frameStep_of_idle (s := s.setDbg d) hf]
    cases tone <;> rfl
  | startConfirm =>
    rw [frameStep_of_startConfirm hf, frameStep_of_startConfirm (s := s.setDbg d) hf]
    unfold startStep
    rw [hhalf]
    cases tone <;> split <;> rfl
  | dataBits =>
    rw [frameStep_of_dataBits hf, frameStep_of_dataBits (s := s.setDbg d) hf, dataStep, dataStep, hnext, hbit]
    split <;> rfl
  | stopBits =>
    rw [frameStep_of_stopBits hf, frameStep_of_stopBits (s := s.setDbg d) hf]
    unfold stopStep
    rw [hnext, stopValid_setDbg]
    cases tone <;> split <;> rfl

theorem pull_setDbg (d : Bool) (s : State) : pull (s.setDbg d) = ((pull s).1, (pull s).2.setDbg d) := by
  have h : (pull s).2.setDbg d = (s.setDbg d).withObserved (pull s).2 := by rw [pull_state]; rfl
  rw [h]
  exact pull_withObserved (s.setDbg d) s

theorem respond_setDbg (d : Bool) (s : State) (p : Port) (r : Response) :
    (s.setDbg d).respond p r = (s.respond p r).setDbg d := by
  cases p <;> rfl

/-- Every command but SET_DEBUG carries `DBG` along and reads it nowhere. -/
theorem exec_setDbg {i : Instr} (hi : ∀ e, i ≠ .setDebug e) (d : Bool) (s : State) :
    exec i (s.setDbg d) = mapNext (State.setDbg d) (exec i s) := by
  cases i with
  | init => rw [exec_init_eq, exec_init_eq, pull_setDbg]; rfl
  | step =>
    cases hinit : s.initDone with
    | false => rw [exec_step_of_not_initDone hinit, exec_step_of_not_initDone (s := s.setDbg d) hinit]; rfl
    | true =>
      obtain ⟨tone, now, w, ho⟩ : ∃ tone now w, observe s = (tone, now, w) := ⟨_, _, _, rfl⟩
      rw [exec_step_eq hinit ho, exec_step_eq (s := s.setDbg d) hinit (observe_setDbg d ho), frameStep_setDbg,
        respond_setDbg]
      rfl
  | drainText p m =>
    by_cases hm : m = 0
    · subst hm; rw [exec_drainText_zero, exec_drainText_zero, respond_setDbg]; rfl
    · rw [exec_drainText_of_ne_zero hm, exec_drainText_of_ne_zero hm]
      exact congrArg Host.Outcome.next (respond_setDbg d (drain (drainLimit m) s).2 p _)
  | setBaud _ | setWindow _ | setThreshold _ =>
    simp only [exec, execSetBaud, execSetWindow, execSetThreshold]
    split <;> rfl
  | setDebug e => exact absurd rfl (hi e)

/-- Settles O51: no command but SET_DEBUG reads or writes `DBG`. -/
theorem debugHasNoEffect : Obligations.DebugHasNoEffect :=
  fun _ s d hi => exec_setDbg hi d s

/-! ## The ring and port C's side (R41) -/

theorem observe_producerView {s w : State} {tone : Tone} {now : Time} (ho : observe s = (tone, now, w)) :
    observe s.producerView = (tone, now, w.producerView) := by
  have h := observe_withObserved s.producerView ho
  have hw : w.producerView = s.producerView.withObserved w := by rw [observe_eq ho]; rfl
  rw [hw]; exact h

/-- But for the ring, a framing transition is the same whatever the ring holds: a PUSH reads the cursors to write the ring. -/
theorem frameStep_producerView (tone : Tone) (now : Time) (s : State) :
    (frameStep tone now s.producerView).producerView = (frameStep tone now s).producerView := by
  have hhalf : halfDone s.producerView now = halfDone s now := rfl
  have hnext : s.producerView.tNext = s.tNext := rfl
  have hbit : (sampleBit tone s.producerView).producerView = (sampleBit tone s).producerView := by
    rw [sampleBit_state, sampleBit_state]; rfl
  have hstop : (stopValid s.producerView).producerView = (stopValid s).producerView := by
    rw [stopValid_state, stopValid_state s]; rfl
  cases hf : s.fstate with
  | idle =>
    rw [frameStep_of_idle hf, frameStep_of_idle (s := s.producerView) hf]
    cases tone <;> rfl
  | startConfirm =>
    rw [frameStep_of_startConfirm hf, frameStep_of_startConfirm (s := s.producerView) hf]
    unfold startStep
    rw [hhalf]
    cases tone <;> split <;> rfl
  | dataBits =>
    rw [frameStep_of_dataBits hf, frameStep_of_dataBits (s := s.producerView) hf, dataStep, dataStep, hnext]
    split
    · exact hbit
    · rfl
  | stopBits =>
    rw [frameStep_of_stopBits hf, frameStep_of_stopBits (s := s.producerView) hf]
    unfold stopStep
    rw [hnext]
    split
    · cases tone
      · exact hstop
      · rfl
    · rfl

theorem pull_producerView (s : State) : pull s.producerView = ((pull s).1, (pull s).2.producerView) := by
  have h : (pull s).2.producerView = s.producerView.withObserved (pull s).2 := by rw [pull_state]; rfl
  rw [h]
  exact pull_withObserved s.producerView s

theorem respond_P_producerView (s : State) (r : Response) :
    (s.respond .P r).producerView = s.producerView.respond .P r := rfl

/-- What a command but DRAIN_TEXT does to the producer's view is decided by that view. -/
theorem exec_producerView {i : Instr} (hi : ∀ p m, i ≠ .drainText p m) (s : State) :
    mapNext State.producerView (exec i s.producerView) = mapNext State.producerView (exec i s) := by
  cases i with
  | init => rw [exec_init_eq, exec_init_eq, pull_producerView]; rfl
  | step =>
    cases hinit : s.initDone with
    | false => rw [exec_step_of_not_initDone hinit, exec_step_of_not_initDone (s := s.producerView) hinit]
    | true =>
      obtain ⟨tone, now, w, ho⟩ : ∃ tone now w, observe s = (tone, now, w) := ⟨_, _, _, rfl⟩
      rw [exec_step_eq hinit ho, exec_step_eq (s := s.producerView) hinit (observe_producerView ho)]
      simp only [mapNext, respond_P_producerView, frameStep_producerView]
  | drainText p m => exact absurd rfl (hi p m)
  | setBaud _ | setWindow _ | setThreshold _ =>
    simp only [exec, execSetBaud, execSetWindow, execSetThreshold]
    split <;> rfl
  | setDebug e => rfl

/-- Settles O52: both outcomes have the view of the outcome from the common view. -/
theorem ringReachesTheRestOnlyThroughDrainText : Obligations.RingReachesTheRestOnlyThroughDrainText :=
  fun _ s s' hi h => (exec_producerView hi s).symm.trans (h ▸ exec_producerView hi s')

end Sys2Proof.Machine
end
